-- ==== Sys2Proof/Word.lean ====
section
/-! DEFINITION. The two word widths of the engine (spec R2) and the W-bit word (spec R9). -/

namespace Sys2Proof

/-- The width variant of an engine instance, `W ∈ {32, 64}` (R2). -/
inductive Width where
  | w32
  | w64
  deriving DecidableEq, Repr

/-- `W`, the word width in bits (R6). -/
abbrev Width.bits : Width → Nat
  | .w32 => 32
  | .w64 => 64

/-- A W-bit word: an unsigned integer in `[0, 2^W)`, bit 0 the least significant (R9).
Its `+`, `-`, `*` wrap modulo `2^W` (R10). -/
abbrev Word (k : Width) := BitVec k.bits

/-- A small natural number used as an operand is first taken modulo `2^W` (R10). -/
abbrev Word.ofNat (k : Width) (n : Nat) : Word k := BitVec.ofNat k.bits n

end Sys2Proof
end

