-- ==== Sys2Proof/Config.lean ====
section
/-! DEFINITION. What an instance fixes for its whole life: the per-width constants of spec R6 and R7
(hardwired, R25), the parameter type of R8, and the free values the spec leaves open (R8, R30, R51). -/

namespace Sys2Proof

namespace Width

/-- `N`, the length of the state vector (R6). -/
abbrev N : Width → Nat
  | .w32 => 624
  | .w64 => 312

/-- `M`, the twist's shift distance (R6). -/
abbrev M : Width → Nat
  | .w32 => 397
  | .w64 => 156

/-- Storage width of `cursor` (R21, R28). -/
abbrev cursorBits : Width → Nat
  | .w32 => 10
  | .w64 => 9

/-- `SH_SEED = W - 2`, the right shift inside every seeding recurrence (R6). -/
def shSeed : Width → Nat
  | .w32 => 30
  | .w64 => 62

/-- `DEFAULT_SEED`, the lazy default seed (R6, R7). -/
def defaultSeed : (k : Width) → Word k
  | .w32 => 5489#32
  | .w64 => 5489#64

/-- `ARRAY_BASE_SEED`, the scalar seed of step 1 of array seeding (R6, R7). -/
def arrayBaseSeed : (k : Width) → Word k
  | .w32 => 19650218#32
  | .w64 => 19650218#64

/-- `MSB_FORCE`, the value forced into `words[0]` at the end of array seeding (R6). -/
def msbForce : (k : Width) → Word k
  | .w32 => 0x80000000#32
  | .w64 => 0x8000000000000000#64

/-- `F_SEED`, the multiplier of scalar seeding (R7). -/
def fSeed : (k : Width) → Word k
  | .w32 => 1812433253#32
  | .w64 => 6364136223846793005#64

/-- `B_MIX`, the multiplier of the key-mixing pass (R7). -/
def bMix : (k : Width) → Word k
  | .w32 => 1664525#32
  | .w64 => 3935559000370003845#64

/-- `C_MIX`, the multiplier of the internal pass (R7). -/
def cMix : (k : Width) → Word k
  | .w32 => 1566083941#32
  | .w64 => 2862933555777941757#64

/-- `MATRIX_A`, the twist matrix coefficient (R7). -/
def matrixA : (k : Width) → Word k
  | .w32 => 0x9908B0DF#32
  | .w64 => 0xB5026F5AA96619E9#64

/-- `UPPER_MASK`, the upper part of the twist's split (R7, conflict C1). -/
def upperMask : (k : Width) → Word k
  | .w32 => 0x80000000#32
  | .w64 => 0xFFFFFFFF80000000#64

/-- `LOWER_MASK`, the lower part of the twist's split: `R_LOW` = 31 bits (R6, R7, conflict C1). -/
def lowerMask : (k : Width) → Word k
  | .w32 => 0x7FFFFFFF#32
  | .w64 => 0x000000007FFFFFFF#64

/-- `T_U`, the right shift of the first tempering step (R7). -/
def tU : Width → Nat
  | .w32 => 11
  | .w64 => 29

/-- `T_D`, the mask of the first tempering step (R7). -/
def tD : (k : Width) → Word k
  | .w32 => 0xFFFFFFFF#32
  | .w64 => 0x5555555555555555#64

/-- `T_S`, the left shift of the second tempering step (R7). -/
def tS : Width → Nat
  | .w32 => 7
  | .w64 => 17

/-- `T_B`, the mask of the second tempering step (R7). -/
def tB : (k : Width) → Word k
  | .w32 => 0x9D2C5680#32
  | .w64 => 0x71D67FFFEDA60000#64

/-- `T_T`, the left shift of the third tempering step (R7). -/
def tT : Width → Nat
  | .w32 => 15
  | .w64 => 37

/-- `T_C`, the mask of the third tempering step (R7). -/
def tC : (k : Width) → Word k
  | .w32 => 0xEFC60000#32
  | .w64 => 0xFFF7EEE000000000#64

/-- `T_L`, the right shift of the fourth tempering step (R7). -/
def tL : Width → Nat
  | .w32 => 18
  | .w64 => 43

/-- The state vector is not empty, so an index may be reduced modulo `N`. -/
theorem N_pos (k : Width) : 0 < k.N := by cases k <;> decide

end Width

/-- `REAL32_FORM`: which integer the three real conversions of the 32-bit instance scale (R8, R157). -/
inductive Real32Form where
  /-- `DOC`, the source's formula: the top 21 or 20 bits (the default of R8). -/
  | doc
  /-- `MT19937AR`, the published 32-bit reference: all 32 bits. -/
  | mt19937ar
  deriving DecidableEq, Repr

/-- FREE VALUE. One less than `KEY_LEN_MAX` of each instance at `State.reset`: the spec gives no value
(R8, OPEN, no default; log 2). -/
opaque Config.keyLenMaxPred : Width → Nat

/-- `KEY_LEN_MAX` of each instance at `State.reset`: any natural number of at least 1 (R8). -/
def Config.keyLenMax (k : Width) : Nat := Config.keyLenMaxPred k + 1

/-- FREE VALUE. Element `i` of `words` after reset number `n` of the instance (R30: "any W-bit value per
element, independently"; log 4). -/
opaque Config.resetWord (k : Width) (n i : Nat) : Word k

/-- FREE VALUE. Element `j` of `KMEM` after reset number `n` of the instance (R51, R200; log 5). -/
opaque Config.resetKey (k : Width) (n j : Nat) : Word k

/-- FREE VALUE. What a `MemRead` at an index outside `KMEM` would give: the engine never forms one
(R52, R55; log 10). -/
opaque Config.absentKey (k : Width) (j : Nat) : Word k

end Sys2Proof
end

