-- ==== Sys2Proof/Syntax.lean ====
section
/-! DEFINITION. The commands of the engine, one constructor per row of spec/opcode_table.json (R76). -/

namespace Sys2Proof

/-- A decoded command. The five output commands have no operand: their ARG is ignored (R75).
`arg` is the ARG word of the two seeding commands, zero-extended to the wider of the two ports
(log 9): an instance of width W uses its low W bits. -/
inductive Instr where
  /-- SEED_SCALAR (R101): `arg` is the seed. -/
  | seedScalar (arg : BitVec 64)
  /-- SEED_ARRAY (R103): `arg` is the number of keys `L`. -/
  | seedArray (arg : BitVec 64)
  /-- NEXT_RAW (R152). -/
  | nextRaw
  /-- NEXT_SIGNED (R153). -/
  | nextSigned
  /-- NEXT_REAL_CLOSED01 (R155). -/
  | nextRealClosed01
  /-- NEXT_REAL_HALFOPEN01 (R156). -/
  | nextRealHalfopen01
  /-- NEXT_REAL_OPEN01 (R158). -/
  | nextRealOpen01
  deriving DecidableEq, Repr

/-- The mnemonic of a command (R76, R80). -/
def Instr.mnemonic : Instr → String
  | .seedScalar _ => "SEED_SCALAR"
  | .seedArray _ => "SEED_ARRAY"
  | .nextRaw => "NEXT_RAW"
  | .nextSigned => "NEXT_SIGNED"
  | .nextRealClosed01 => "NEXT_REAL_CLOSED01"
  | .nextRealHalfopen01 => "NEXT_REAL_HALFOPEN01"
  | .nextRealOpen01 => "NEXT_REAL_OPEN01"

/-- The five output commands: those that call `extract()` (R151, R160). -/
def Instr.isOutput : Instr → Bool
  | .seedScalar _ => false
  | .seedArray _ => false
  | .nextRaw => true
  | .nextSigned => true
  | .nextRealClosed01 => true
  | .nextRealHalfopen01 => true
  | .nextRealOpen01 => true

end Sys2Proof
end

