-- ==== Sys2Proof/Machine/State.lean ====
section
/-! DEFINITION. The state of the machine: two engine instances, one of each width (spec R2, R20 to R31), with
the key memory of each (R51), and the host's pending interactions (R211). -/

namespace Sys2Proof.Machine

/-- Why the machine stops. EMPTY: the spec gives the engine no fault; "every command, legal or not, completes
with exactly one response" (93, end of part 1; R187). Safe: a fault could only hide a behaviour. -/
inductive Fault where
  deriving DecidableEq, Repr

/-- Why a host interaction is given no meaning. -/
inductive Refusal where
  /-- Raised by `exec` for an instruction without a meaning: no arm of this model raises it. Safe. -/
  | notModelled (mnemonic : String)
  /-- Raised by a host write of `KMEM` at an index at or above `KEY_LEN_MAX`: "a host-duty violation a model
  refuses" (R71). Safe: no claim is made about such a host. -/
  | keyIndexOutOfRange (port : Width) (idx : Nat)
  /-- Raised by a host write of `KMEM` while a command is outstanding: "a model of a host that breaks it gives
  the write no meaning (refusal)" (R205). Safe. -/
  | keyWriteWhileBusy (port : Width)
  /-- Raised by a command issued while `cmd_ready = 0`: "the handshake gives the host no such move"
  (R204; 93 U11). Safe. -/
  | commandWhileBusy (port : Width)
  deriving DecidableEq, Repr

/-- The codes of `RSP_STATUS` (R180). -/
inductive Status where
  | ok
  | illegalCommand
  | invalidArgument
  | keyLengthExceeded
  deriving DecidableEq, Repr

/-- `words`: `N` words of W bits, indexed 0 to N-1 (R20). -/
abbrev StateVector (k : Width) := Vector (Word k) k.N

/-- `KMEM`: its elements in index order, every one listed (R50, R51: indexed "by element, never by byte").
Its length is `KEY_LEN_MAX` (R8), so equal memories are equal lists (log 5). -/
abbrev Memory (k : Width) := List (Word k)

/-- The form of a key memory: `KEY_LEN_MAX` is at least 1 (R8). -/
def Memory.wf {k : Width} (m : Memory k) : Bool := decide (1 ≤ m.length)

/-- One engine instance of width `k` (R28), its key memory (R51) and its handshake signals (R70, R72). -/
structure Engine (k : Width) where
  /-- `words[0..N-1]` (R20). -/
  words : StateVector k
  /-- `cursor`, legal values 0..N (R21). -/
  cursor : BitVec k.cursorBits
  /-- `initialized` (R22). -/
  initialized : Bool
  /-- `RSP_DATA` (R24). -/
  rspData : BitVec 64
  /-- `RSP_STATUS`, a code of R180 (R24). -/
  rspStatus : BitVec 2
  /-- `KMEM` (R51). -/
  kmem : Memory k
  /-- `cmd_ready`: no command is outstanding (R70). -/
  cmdReady : Bool
  /-- `rsp_valid`: the step that led to this state delivered a response of this instance (R72). -/
  rspValid : Bool
  /-- The model's own: how many times the instance has been reset; it selects the free values (log 6). -/
  resets : Nat
  deriving DecidableEq, Repr

/-- What the host can do to one instance (R211). -/
inductive HostAction (k : Width) where
  /-- `KMEM[idx] := data` on the key-memory write port (R71, R81). -/
  | writeKey (idx : Nat) (data : Word k)
  /-- A command word and its argument word on the command port (R70, R74). -/
  | command (cmd : BitVec 8) (arg : Word k)
  /-- `RESET` (R81, R200). -/
  | reset
  deriving DecidableEq, Repr

/-- A host action and the instance it is addressed to. -/
inductive HostInput where
  | to (port : Width) (action : HostAction port)
  deriving DecidableEq, Repr

/-- The machine: the two instances (R2, R31), the parameter `REAL32_FORM` (R8), and the model's own record of
the host: the port in use and the interactions still to come (log 7). -/
structure State where
  /-- The 32-bit instance. -/
  engine32 : Engine .w32
  /-- The 64-bit instance. -/
  engine64 : Engine .w64
  /-- `REAL32_FORM` of the 32-bit instance, a parameter no step changes (R8, R157; log 3). -/
  real32Form : Real32Form
  /-- The model's own: the instance whose command port carries the command being performed (log 7). -/
  port : Width
  /-- The model's own: the host's interactions not yet taken, oldest first (R211; log 7). -/
  inputs : List HostInput
  deriving DecidableEq, Repr

/-- `N` free words: what `words` holds after reset number `n` (R30). -/
def resetWords (k : Width) (n : Nat) : StateVector k :=
  ⟨((List.range k.N).map (Config.resetWord k n)).toArray, by simp⟩

/-- `len` free words: what `KMEM` holds after reset number `n` (R51, R200). -/
def resetMemory (k : Width) (n len : Nat) : Memory k := (List.range len).map (Config.resetKey k n)

/-- An instance right after its reset number `n` (R30, R200), its `KEY_LEN_MAX` being `len`. -/
def Engine.afterReset (k : Width) (n len : Nat) : Engine k where
  words := resetWords k n
  cursor := BitVec.ofNat k.cursorBits k.N
  initialized := false
  rspData := 0
  rspStatus := 0
  kmem := resetMemory k n len
  cmdReady := true
  rspValid := false
  resets := n

/-- The machine right after reset: both instances in the reset state (R191, R200), no interaction pending. -/
def State.reset : State where
  engine32 := Engine.afterReset .w32 0 (Config.keyLenMax .w32)
  engine64 := Engine.afterReset .w64 0 (Config.keyLenMax .w64)
  real32Form := .doc
  port := .w32
  inputs := []

end Sys2Proof.Machine
end

