-- ==== Sys2Proof/Machine/Float.lean ====
section
/-! DEFINITION. The binary64 primitives of spec R11, on the operands the engine gives them: non-negative finite
values (R155, R185; log 12). A value is its 64-bit pattern: sign at bit 63, exponent bits 62..52, fraction bits
51..0 (R73). -/

namespace Sys2Proof.Machine

/-- The exponent field, bits 62..52. -/
def f64Exp (b : BitVec 64) : Nat := (b.extractLsb' 52 11).toNat

/-- The fraction field, bits 51..0. -/
def f64Frac (b : BitVec 64) : Nat := (b.extractLsb' 0 52).toNat

/-- How many units of `2^-1074` make 1. Every binary64 value is a whole number of these units. -/
def f64Scale : Nat := 2 ^ 1074

/-- A non-negative finite binary64 value counted in units of `2^-1074`: the fraction alone for a subnormal,
else the fraction with its hidden bit, shifted by the exponent. -/
def f64Units (b : BitVec 64) : Nat :=
  if f64Exp b = 0 then f64Frac b else (2 ^ 52 + f64Frac b) * 2 ^ (f64Exp b - 1)

/-- `q`, or `q + 1` when the remainder `r` is above half of `d`, or is half of it and `q` is odd: rounding
to nearest, ties to even. -/
def roundEven (q r d : Nat) : Nat :=
  if d < 2 * r ∨ (2 * r = d ∧ q % 2 = 1) then q + 1 else q

/-- The shift that brings `units` down to the 53 bits of a significand; 0 for a subnormal. -/
def f64Shift (units : Nat) : Nat := units.log2 - 52

/-- `rne(num / den)`: the rational rounded to the nearest binary64 value, ties to even (R11). `den` is positive.
The quotient is taken in units of `2^-1074` shifted to 53 bits; adding the shift above the fraction field gives
the exponent, a carry out of the rounding included; a result past the largest finite value is infinity. -/
def rne (num den : Nat) : BitVec 64 :=
  let sh := f64Shift (num * f64Scale / den)
  let d := den * 2 ^ sh
  BitVec.ofNat 64 (min (sh * 2 ^ 52 + roundEven (num * f64Scale / d) (num * f64Scale % d) d) 0x7FF0000000000000)

/-- `toF64(k)`: exact for `k < 2^53` (R11). -/
def toF64 (n : Nat) : BitVec 64 := rne n 1

/-- `recipF64(D) = rne(1 / D)` (R11). -/
def recipF64 (d : Nat) : BitVec 64 := rne 1 d

/-- `fmul(a, b) = rne(a * b)` (R11). -/
def fmul (a b : BitVec 64) : BitVec 64 := rne (f64Units a * f64Units b) (f64Scale * f64Scale)

/-- `fadd(a, b) = rne(a + b)` (R11). -/
def fadd (a b : BitVec 64) : BitVec 64 := rne (f64Units a + f64Units b) f64Scale

/-- The binary64 value 0.5 (R158). -/
def f64Half : BitVec 64 := rne 1 2

/-- The binary64 value `2^-n`, exact (R156). -/
def f64Pow2Neg (n : Nat) : BitVec 64 := rne 1 (2 ^ n)

end Sys2Proof.Machine
end

