-- ==== Sys2Proof/WellFormed.lean ====
section
/-! DEFINITION. When a command can be written for an instance of a given width: its argument "must fit in
W bits unsigned" (spec R80; ARG is a W-bit word, R74). -/

namespace Sys2Proof

/-- `arg` is a W-bit word: all bits above `W` are 0. -/
def argFits (k : Width) (arg : BitVec 64) : Bool := decide (arg.toNat < 2 ^ k.bits)

/-- A command is well-formed for width `k` when its argument fits in the ARG word (R74, R80). -/
def Instr.wf (k : Width) : Instr → Bool
  | .seedScalar arg => argFits k arg
  | .seedArray arg => argFits k arg
  | .nextRaw => true
  | .nextSigned => true
  | .nextRealClosed01 => true
  | .nextRealHalfopen01 => true
  | .nextRealOpen01 => true

end Sys2Proof
end

