-- ==== Sys2Proof/Decode.lean ====
section
/-! DEFINITION. The command word: its fields (spec R74), the decoder (R79), total on all 256 values of CMD,
and the encoder (R75, R76). -/

namespace Sys2Proof

/-- Why a command word is ILLEGAL (R77). -/
inductive DecodeReject where
  /-- `RSVD`, bits 7..4, is not 0000. -/
  | reservedBits (rsvd : BitVec 4)
  /-- `OP`, bits 3..0, is none of 1 to 7. -/
  | undefinedOp (op : BitVec 4)
  deriving DecidableEq, Repr

/-- `RSVD`, bits 7..4 of CMD (R74). -/
def cmdRsvd (cmd : BitVec 8) : BitVec 4 := cmd.extractLsb' 4 4

/-- `OP`, bits 3..0 of CMD (R74). -/
def cmdOp (cmd : BitVec 8) : BitVec 4 := cmd.extractLsb' 0 4

/-- `{RSVD, OP}` as one command word (R74). -/
def cmdWord (rsvd op : BitVec 4) : BitVec 8 := rsvd ++ op

/-- The decoder of R79, with the operand of R75 taken from ARG: the whole W-bit word for the two seeding
commands, nothing for the output commands. -/
def decode (k : Width) (cmd : BitVec 8) (arg : Word k) : Except DecodeReject Instr :=
  if cmdRsvd cmd = 0#4 then
    match (cmdOp cmd).toNat with
    | 1 => .ok (.seedScalar (arg.setWidth 64))
    | 2 => .ok (.seedArray (arg.setWidth 64))
    | 3 => .ok .nextRaw
    | 4 => .ok .nextSigned
    | 5 => .ok .nextRealClosed01
    | 6 => .ok .nextRealHalfopen01
    | 7 => .ok .nextRealOpen01
    | _ => .error (.undefinedOp (cmdOp cmd))
  else .error (.reservedBits (cmdRsvd cmd))

/-- The OP field of a command (R76). -/
def encodeOp : Instr → BitVec 4
  | .seedScalar _ => 0b0001#4
  | .seedArray _ => 0b0010#4
  | .nextRaw => 0b0011#4
  | .nextSigned => 0b0100#4
  | .nextRealClosed01 => 0b0101#4
  | .nextRealHalfopen01 => 0b0110#4
  | .nextRealOpen01 => 0b0111#4

/-- The ARG word of a command at width `k` (R75). The output commands ignore theirs; the encoded one is 0 (R80). -/
def encodeArg (k : Width) : Instr → Word k
  | .seedScalar arg => arg.setWidth k.bits
  | .seedArray arg => arg.setWidth k.bits
  | .nextRaw => 0
  | .nextSigned => 0
  | .nextRealClosed01 => 0
  | .nextRealHalfopen01 => 0
  | .nextRealOpen01 => 0

/-- The words of a command: CMD with `RSVD` = 0000, and ARG (R74, R76). -/
def encode (k : Width) (i : Instr) : BitVec 8 × Word k := (cmdWord 0b0000#4 (encodeOp i), encodeArg k i)

/-- CMD of a command whose bits are numbered as the opcode table numbers them: bits 7..0 (log 9). -/
def tableCmd (nbits w : Nat) : BitVec 8 := BitVec.ofNat 8 (w % 2 ^ nbits)

/-- ARG of such a command: the bits from 8 on, 0 above `nbits` (log 9). -/
def tableArg (k : Width) (nbits w : Nat) : Word k := BitVec.ofNat k.bits ((w % 2 ^ nbits) >>> 8)

/-- The command this decoder reads from the bits of `w` as the opcode table numbers them, the ARG word at
its wider width (log 9). -/
def decodeTableWord (nbits w : Nat) : Option Instr :=
  match decode .w64 (tableCmd nbits w) (tableArg .w64 nbits w) with
  | .ok i => some i
  | .error _ => none

end Sys2Proof
end

