-- ==== Sys2Proof/Machine/Flags.lean ====
section
/-! DEFINITION. The status codes (spec R180). The engine has no condition codes and no floating-point flags
(R27, R185): `RSP_STATUS` and `initialized` are its only status bits. -/

namespace Sys2Proof.Machine

/-- The code of a status in `RSP_STATUS` (R180). -/
def statusCode : Status → BitVec 2
  | .ok => 0
  | .illegalCommand => 1
  | .invalidArgument => 2
  | .keyLengthExceeded => 3

end Sys2Proof.Machine
end

