-- ==== Sys2Proof/Machine/Operands.lean ====
section
/-! DEFINITION. Operand assembly from ARG (spec R75). The five output commands have no operand. -/

namespace Sys2Proof.Machine

/-- The ARG word a port of width `k` carries: the low W bits of a command's `arg` (R74; log 9). -/
def argWord (k : Width) (arg : BitVec 64) : Word k := arg.setWidth k.bits

/-- SEED_SCALAR: "`seed = ARG`, the whole W-bit word, unsigned, not extended or scaled" (R75). -/
def seedOperand (k : Width) (arg : BitVec 64) : Word k := argWord k arg

/-- SEED_ARRAY: "`L = ARG` read as an unsigned integer in `[0, 2^W - 1]`" (R75). -/
def keyCount (k : Width) (arg : BitVec 64) : Nat := (argWord k arg).toNat

end Sys2Proof.Machine
end

