-- ==== Sys2Proof/Machine/Ops.lean ====
section
/-! DEFINITION. The named operations on the two storage spaces (spec R50), on an instance's registers and
handshake signals, the raising of a status (R12, R181), and the host's actions (R71, R200, R204, R205). -/

namespace Sys2Proof.Machine

variable {k : Width}

/-! ### The state vector -/

/-- `words[i]`, the index taken modulo `N` (R130 "index arithmetic modulo N"; every other rule forms only
indices below `N`, R20, R55; log 10). -/
def readWord (ws : StateVector k) (i : Nat) : Word k := ws[i % k.N]'(Nat.mod_lt _ k.N_pos)

/-- `words[i] <- v`, the index taken modulo `N` (R12). -/
def writeWord (ws : StateVector k) (i : Nat) (v : Word k) : StateVector k :=
  ws.set (i % k.N) v (Nat.mod_lt _ k.N_pos)

/-! ### The key memory -/

/-- `KEY_LEN_MAX` of an instance: the number of elements of its `KMEM` (R8, R51). -/
def keyLenMax (m : Memory k) : Nat := m.length

/-- `MemRead(KMEM, j)` (R52). It is performed only for `j < L ≤ KEY_LEN_MAX`; elsewhere the value is free
(log 10). -/
def memRead (m : Memory k) (j : Nat) : Word k := m.getD j (Config.absentKey k j)

/-- `KMEM[idx] <- data` for an index inside `KMEM`, one whole element (R53). -/
def memWrite (m : Memory k) (idx : Nat) (data : Word k) : Memory k := m.set idx data

/-! ### The response and the raising of a status -/

/-- Deliver the response of the outstanding command: `RSP_DATA` and `RSP_STATUS` are written (R24),
`rsp_valid = 1` (R72), and `cmd_ready` returns to 1 (R70). -/
def respond (st : Status) (data : BitVec 64) (e : Engine k) : Engine k :=
  { e with rspData := data, rspStatus := statusCode st, rspValid := true, cmdReady := true }

/-- Complete a command: status `OK` (R180). -/
def complete (data : BitVec 64) (e : Engine k) : Engine k := respond .ok data e

/-- `raise <Status>(info)` (R12): the code in `RSP_STATUS`, 0 in `RSP_DATA`, nothing else of the engine's
state changed (R181). There is no return from it: it is a normal completion (R187). -/
def raise (st : Status) (e : Engine k) : Engine k := respond st 0 e

/-! ### The instances -/

/-- The instance of width `k`. -/
def State.engine (s : State) : (k : Width) → Engine k
  | .w32 => s.engine32
  | .w64 => s.engine64

/-- Replace the instance of width `k`. -/
def State.setEngine (s : State) : (k : Width) → Engine k → State
  | .w32, e => { s with engine32 := e }
  | .w64, e => { s with engine64 := e }

/-- Let the instance whose command port is in use perform `f`; the other one is not touched (R31). -/
def State.onPort (s : State) (f : (k : Width) → Engine k → Engine k) : State :=
  s.setEngine s.port (f s.port (s.engine s.port))

/-! ### The host's actions -/

/-- The beginning of a step: `rsp_valid` marks one step only (R72), so it falls on both instances. -/
def beginStep (s : State) : State :=
  { s with engine32 := { s.engine32 with rspValid := false },
           engine64 := { s.engine64 with rspValid := false } }

/-- The beginning of a step that takes the oldest pending interaction, `rest` being those after it (R211). -/
def popInput (rest : List HostInput) (s : State) : State := { beginStep s with inputs := rest }

/-- The host's write of `KMEM[idx]` (R71), refused while a command is outstanding (R205) and at an index at or
above `KEY_LEN_MAX` (R71). -/
def hostWriteKey (k : Width) (idx : Nat) (data : Word k) (s : State) : Host.Outcome State Fault Refusal :=
  if (s.engine k).cmdReady then
    if idx < keyLenMax (s.engine k).kmem then
      .next (s.setEngine k { s.engine k with kmem := memWrite (s.engine k).kmem idx data })
    else .refused (.keyIndexOutOfRange k idx)
  else .refused (.keyWriteWhileBusy k)

/-- `RESET` of one instance (R200), its `words` and `KMEM` fresh free values (log 4, log 5). A command
outstanding then produces no response (R201). `KEY_LEN_MAX` stays: it is a parameter (R8). -/
def hostReset (k : Width) (s : State) : State :=
  s.setEngine k (Engine.afterReset k ((s.engine k).resets + 1) (keyLenMax (s.engine k).kmem))

/-- Acceptance of a command on port `k`: `cmd_ready` becomes 0 (R70) and the port is the one in use. -/
def acceptCommand (k : Width) (s : State) : State :=
  { s.setEngine k { s.engine k with cmdReady := false } with port := k }

/-- An illegal command: `ILLEGAL_COMMAND` is raised on the port in use, ARG not examined (R77, R182). -/
def illegalCommand (s : State) : State := s.onPort fun _ e => raise .illegalCommand e

/-- The effect of a decoded command, `run` being what the commands do: `ILLEGAL` is looked at before anything
else (R182, R186). -/
def performDecoded (run : Instr → State → Host.Outcome State Fault Refusal) (d : Except DecodeReject Instr)
    (s : State) : Host.Outcome State Fault Refusal :=
  match d with
  | .ok i => run i s
  | .error _ => .next (illegalCommand s)

/-- A command issued on port `k` (R70): accepted only while `cmd_ready = 1` (R204), decoded (R79), performed. -/
def issueCommand (run : Instr → State → Host.Outcome State Fault Refusal) (k : Width) (cmd : BitVec 8)
    (arg : Word k) (s : State) : Host.Outcome State Fault Refusal :=
  if (s.engine k).cmdReady then performDecoded run (decode k cmd arg) (acceptCommand k s)
  else .refused (.commandWhileBusy k)

/-- One host action on the instance it is addressed to (R211). -/
def performAction (run : Instr → State → Host.Outcome State Fault Refusal) (k : Width) (a : HostAction k)
    (s : State) : Host.Outcome State Fault Refusal :=
  match a with
  | .writeKey idx data => hostWriteKey k idx data s
  | .command cmd arg => issueCommand run k cmd arg s
  | .reset => .next (hostReset k s)

/-- One step of the machine: take the oldest pending interaction and perform it; with none pending the engines
hold their state (R192). -/
def takeStep (run : Instr → State → Host.Outcome State Fault Refusal) (s : State) :
    Host.Outcome State Fault Refusal :=
  match s.inputs with
  | [] => .next (beginStep s)
  | .to k a :: rest => performAction run k a (popInput rest s)

end Sys2Proof.Machine
end

