-- ==== Sys2Proof/Machine/Seeding.lean ====
section
/-! DEFINITION. Seeding (spec R100 to R110): the scalar fill, SEED_SCALAR, SEED_ARRAY and the lazy default
seeding. -/

namespace Sys2Proof.Machine

variable {k : Width}

/-! ### Scalar fill -/

/-- `p ^ (p >> (W-2))`, the mix inside every seeding recurrence (R100, R104, R105). -/
def seedMix (p : Word k) : Word k := p ^^^ (p >>> k.shSeed)

/-- Step `i` of the scalar fill: `words[i] <- F_SEED * (p ^ (p >> (W-2))) + i` with `p = words[i-1]` (R100). -/
def scalarStep (ws : StateVector k) (i : Nat) : StateVector k :=
  writeWord ws i (k.fSeed * seedMix (readWord ws (i - 1)) + Word.ofNat k i)

/-- The words of `scalar_fill(seed)`: `words[0] <- seed`, then `i` in 1 .. N-1, increasing (R100). -/
def scalarFillWords (seed : Word k) (ws : StateVector k) : StateVector k :=
  (List.range' 1 (k.N - 1)).foldl scalarStep (writeWord ws 0 seed)

/-- What every seeding does at its end: `cursor <- N`, `initialized <- 1` (R100, R106). -/
def seeded (ws : StateVector k) (e : Engine k) : Engine k :=
  { e with words := ws, cursor := BitVec.ofNat k.cursorBits k.N, initialized := true }

/-- `scalar_fill(seed)` (R100). -/
def scalarFill (seed : Word k) (e : Engine k) : Engine k := seeded (scalarFillWords seed e.words) e

/-- The lazy default seeding, `scalar_fill(DEFAULT_SEED)`; it writes no response register (R108). -/
def defaultSeeding (e : Engine k) : Engine k := scalarFill k.defaultSeed e

/-! ### Array fill -/

/-- What the passes of array seeding carry: the words and the two indices (R104). -/
structure FillState (k : Width) where
  words : StateVector k
  i : Nat
  j : Nat
  deriving DecidableEq, Repr

/-- The wrap of `i`: "if i >= N: words[0] <- words[N-1]; i <- 1" (R104, R105). -/
def wrapI (st : FillState k) : FillState k :=
  if k.N ≤ st.i then { st with words := writeWord st.words 0 (readWord st.words (k.N - 1)), i := 1 } else st

/-- The wrap of `j`: "if j >= L: j <- 0" (R104). -/
def wrapJ (L : Nat) (st : FillState k) : FillState k := if L ≤ st.j then { st with j := 0 } else st

/-- The write of one key-mixing step, with the current `i` and `j` (R104). -/
def keyMixWrite (m : Memory k) (st : FillState k) : StateVector k :=
  writeWord st.words st.i
    ((readWord st.words st.i ^^^ (seedMix (readWord st.words (st.i - 1)) * k.bMix))
      + memRead m st.j + Word.ofNat k st.j)

/-- One step of the key-mixing pass: the write, both indices advanced, then the wrap of `i`, then that of `j`
(R104). -/
def keyMixStep (m : Memory k) (L : Nat) (st : FillState k) : FillState k :=
  wrapJ L (wrapI { words := keyMixWrite m st, i := st.i + 1, j := st.j + 1 })

/-- The write of one internal step: no key, and `i` is subtracted (R105). -/
def internalWrite (st : FillState k) : StateVector k :=
  writeWord st.words st.i
    ((readWord st.words st.i ^^^ (seedMix (readWord st.words (st.i - 1)) * k.cMix)) - Word.ofNat k st.i)

/-- One step of the internal pass (R105). -/
def internalStep (st : FillState k) : FillState k :=
  wrapI { words := internalWrite st, i := st.i + 1, j := st.j }

/-- Steps 1 and 2 of `array_fill(L)`: the baseline, then `max(N, L)` key-mixing steps from `i` = 1, `j` = 0
(R104). -/
def keyMixPass (m : Memory k) (L : Nat) (ws : StateVector k) : FillState k :=
  (keyMixStep m L)^[max k.N L] { words := scalarFillWords k.arrayBaseSeed ws, i := 1, j := 0 }

/-- Step 3: `N - 1` internal steps from the `i` the key-mixing pass left (R105). -/
def internalPass (st : FillState k) : FillState k := internalStep^[k.N - 1] st

/-- The words of `array_fill(L)`: the two passes, then `words[0] <- MSB_FORCE` (R104 to R106). -/
def arrayFillWords (m : Memory k) (L : Nat) (ws : StateVector k) : StateVector k :=
  writeWord (internalPass (keyMixPass m L ws)).words 0 k.msbForce

/-- `array_fill(L)` (R104 to R106). -/
def arrayFill (L : Nat) (e : Engine k) : Engine k := seeded (arrayFillWords e.kmem L e.words) e

/-! ### The two seeding commands -/

/-- SEED_SCALAR on one instance (R101). -/
def seedScalar (seed : Word k) (e : Engine k) : Engine k := complete 0 (scalarFill seed e)

/-- SEED_ARRAY on one instance: the two argument checks, in this order, before any other effect (R107, R186);
then the fill (R103). -/
def seedArray (L : Nat) (e : Engine k) : Engine k :=
  if L = 0 then raise .invalidArgument e
  else if keyLenMax e.kmem < L then raise .keyLengthExceeded e
  else complete 0 (arrayFill L e)

/-- SEED_SCALAR (R101). -/
def execSeedScalar (arg : BitVec 64) (s : State) : Host.Outcome State Fault Refusal :=
  .next (s.onPort fun k e => seedScalar (seedOperand k arg) e)

/-- SEED_ARRAY (R103). -/
def execSeedArray (arg : BitVec 64) (s : State) : Host.Outcome State Fault Refusal :=
  .next (s.onPort fun k e => seedArray (keyCount k arg) e)

end Sys2Proof.Machine
end

