-- ==== Sys2Proof/Machine/Twist.lean ====
section
/-! DEFINITION. The twist (spec R130 to R137). It has no encoding (R78): only the output commands run it. -/

namespace Sys2Proof.Machine

variable {k : Width}

/-- The mixing value `x` of a twist step: the upper bits of `words[i]` with the lower bits of `words[i+1]`
(R130, R134). -/
def twistJoin (hi lo : Word k) : Word k := (hi &&& k.upperMask) ||| (lo &&& k.lowerMask)

/-- The product by the twist matrix, as a conditional XOR (R130, R133). -/
def twistMul (x : Word k) : Word k := (x >>> 1) ^^^ (if x.getLsbD 0 then k.matrixA else 0)

/-- Step `i` of the twist, reading the array as the earlier steps left it (R130, R132). -/
def twistStep (ws : StateVector k) (i : Nat) : StateVector k :=
  writeWord ws i (readWord ws (i + k.M) ^^^ twistMul (twistJoin (readWord ws i) (readWord ws (i + 1))))

/-- All `N` steps in increasing `i`, in place (R130, R132; conflict C2). -/
def twistWords (ws : StateVector k) : StateVector k := (List.range k.N).foldl twistStep ws

/-- `twist()`: every word is regenerated and `cursor` becomes 0 (R130). -/
def twist (e : Engine k) : Engine k := { e with words := twistWords e.words, cursor := 0 }

/-- `twist_if_exhausted()`: when `cursor >= N`, the lazy default seeding if nothing was seeded, then the twist
(R131). -/
def twistIfExhausted (e : Engine k) : Engine k :=
  if k.N ≤ e.cursor.toNat then twist (if e.initialized then e else defaultSeeding e) else e

end Sys2Proof.Machine
end

