-- ==== Sys2Proof/Machine/Output.lean ====
section
/-! DEFINITION. Output extraction (spec R150 to R161): the tempering pipeline, `extract()`, the output selector
and the five output commands. -/

namespace Sys2Proof.Machine

variable {k : Width}

/-- First line of `temper`: `y ^ ((y >> T_U) & T_D)` (R150). -/
def temperU (y : Word k) : Word k := y ^^^ ((y >>> k.tU) &&& k.tD)

/-- Second line of `temper`: `y ^ ((y << T_S) & T_B)` (R150). -/
def temperS (y : Word k) : Word k := y ^^^ ((y <<< k.tS) &&& k.tB)

/-- Third line of `temper`: `y ^ ((y << T_T) & T_C)` (R150). -/
def temperT (y : Word k) : Word k := y ^^^ ((y <<< k.tT) &&& k.tC)

/-- Fourth line of `temper`: `y ^ (y >> T_L)` (R150). -/
def temperL (y : Word k) : Word k := y ^^^ (y >>> k.tL)

/-- `temper(y)`: each line reads the `y` the line before it wrote (R150). -/
def temper (y : Word k) : Word k := temperL (temperT (temperS (temperU y)))

/-- The tempered word `extract()` returns from an instance whose batch is not exhausted (R151). -/
def currentWord (e : Engine k) : Word k := temper (readWord e.words e.cursor.toNat)

/-- `cursor <- cursor + 1` (R151). -/
def advance (e : Engine k) : Engine k := { e with cursor := e.cursor + 1 }

/-- The shared shape of the five output commands: `extract()` (R151), then `f` applied to the word it returns,
the result in `RSP_DATA`, status `OK` (R161). -/
def output (f : Word k → BitVec 64) (e : Engine k) : Engine k :=
  complete (f (currentWord (twistIfExhausted e))) (advance (twistIfExhausted e))

/-- The `(k, n)` of the real outputs: the integer scaled and the number of its bits. `drop` is 11 or 12;
the 32-bit instance under `MT19937AR` scales all 32 bits (R154, R157). -/
def realInput (form : Real32Form) (drop : Nat) : (k : Width) → Word k → Nat × Nat
  | .w64, r => ((r >>> drop).toNat, 64 - drop)
  | .w32, r =>
    match form with
    | .doc => ((r >>> drop).toNat, 32 - drop)
    | .mt19937ar => (r.toNat, 32)

/-- `zext_64(r)` (R152). -/
def resultRaw (r : Word k) : BitVec 64 := r.setWidth 64

/-- `zext_64(r >> 1)`, a logical shift (R153). -/
def resultSigned (r : Word k) : BitVec 64 := (r >>> 1).setWidth 64

/-- `fmul(toF64(k), recipF64(2^n - 1))` of the `(k, n)` it is given (R155). -/
def scaleClosed (x : Nat × Nat) : BitVec 64 := fmul (toF64 x.1) (recipF64 (2 ^ x.2 - 1))

/-- `fmul(toF64(k), 2^-n)` (R156). -/
def scaleHalfopen (x : Nat × Nat) : BitVec 64 := fmul (toF64 x.1) (f64Pow2Neg x.2)

/-- `fmul(fadd(toF64(k), 0.5), 2^-n)` (R158). -/
def scaleOpen (x : Nat × Nat) : BitVec 64 := fmul (fadd (toF64 x.1) f64Half) (f64Pow2Neg x.2)

/-- The closed-interval real of a raw word (R155). -/
def resultClosed01 (form : Real32Form) (r : Word k) : BitVec 64 := scaleClosed (realInput form 11 k r)

/-- The half-open real of a raw word (R156). -/
def resultHalfopen01 (form : Real32Form) (r : Word k) : BitVec 64 := scaleHalfopen (realInput form 11 k r)

/-- The open-interval real of a raw word (R158). -/
def resultOpen01 (form : Real32Form) (r : Word k) : BitVec 64 := scaleOpen (realInput form 12 k r)

/-- NEXT_RAW (R152). -/
def execNextRaw (s : State) : Host.Outcome State Fault Refusal :=
  .next (s.onPort fun _ e => output resultRaw e)

/-- NEXT_SIGNED (R153). -/
def execNextSigned (s : State) : Host.Outcome State Fault Refusal :=
  .next (s.onPort fun _ e => output resultSigned e)

/-- NEXT_REAL_CLOSED01 (R155). -/
def execNextRealClosed01 (s : State) : Host.Outcome State Fault Refusal :=
  .next (s.onPort fun _ e => output (resultClosed01 s.real32Form) e)

/-- NEXT_REAL_HALFOPEN01 (R156). -/
def execNextRealHalfopen01 (s : State) : Host.Outcome State Fault Refusal :=
  .next (s.onPort fun _ e => output (resultHalfopen01 s.real32Form) e)

/-- NEXT_REAL_OPEN01 (R158). -/
def execNextRealOpen01 (s : State) : Host.Outcome State Fault Refusal :=
  .next (s.onPort fun _ e => output (resultOpen01 s.real32Form) e)

end Sys2Proof.Machine
end

