-- ==== Sys2Proof/Machine/Dispatch.lean ====
section
/-! DEFINITION. One arm per command (spec R76). -/

namespace Sys2Proof.Machine

def exec (i : Instr) (s : State) : Host.Outcome State Fault Refusal :=
  match i with
  | .seedScalar arg => Sys2Proof.Machine.execSeedScalar arg s
  | .seedArray arg => Sys2Proof.Machine.execSeedArray arg s
  | .nextRaw => Sys2Proof.Machine.execNextRaw s
  | .nextSigned => Sys2Proof.Machine.execNextSigned s
  | .nextRealClosed01 => Sys2Proof.Machine.execNextRealClosed01 s
  | .nextRealHalfopen01 => Sys2Proof.Machine.execNextRealHalfopen01 s
  | .nextRealOpen01 => Sys2Proof.Machine.execNextRealOpen01 s

end Sys2Proof.Machine
end

