-- ==== Sys2Proof/Machine/Step.lean ====
section
/-! DEFINITION. One step of the machine, and the state in which a given command is the next one. -/

namespace Sys2Proof.Machine

/-- One step: the oldest pending host interaction is performed whole (spec R70, R211). -/
def step (s : State) : Host.Outcome State Fault Refusal := takeStep exec s

/-- `s` with the command whose bits are `w`, numbered as the opcode table numbers them, as the next host
interaction, on the port in use, which is made ready for it (log 7, log 9). The interactions already pending
come after it. -/
def State.withFetchWord (s : State) (nbits w : Nat) : State :=
  { s.setEngine s.port { s.engine s.port with cmdReady := true } with
    inputs := .to s.port (.command (tableCmd nbits w) (tableArg s.port nbits w)) :: s.inputs }

end Sys2Proof.Machine
end

