-- ==== Sys2Proof/Machine/Assembly.lean ====
section
/-! DEFINITION. The notation of spec R80 to R82: a command written as a mnemonic with its number, host actions, the
pseudo-instruction SEED_KEYS and `repeat`, expanded to the host actions they stand for (log 13). -/

namespace Sys2Proof.Machine

/-- The width an `ENGINE` line names (R80). -/
def engineName (name : String) : Option Width :=
  if name = "W32" then some .w32 else if name = "W64" then some .w64 else none

/-- The value of a digit character, hexadecimal digits included. -/
def digitValue (c : Char) : Option Nat :=
  if '0' ≤ c ∧ c ≤ '9' then some (c.toNat - '0'.toNat)
  else if 'a' ≤ c ∧ c ≤ 'f' then some (c.toNat - 'a'.toNat + 10)
  else if 'A' ≤ c ∧ c ≤ 'F' then some (c.toNat - 'A'.toNat + 10)
  else none

/-- The number a list of digits of base `b` spells, continuing from `acc`. -/
def digitsValue (b : Nat) : List Char → Nat → Option Nat
  | [], acc => some acc
  | c :: rest, acc =>
    match digitValue c with
    | some d => if d < b then digitsValue b rest (acc * b + d) else none
    | none => none

/-- "A number is decimal, or hexadecimal with a `0x` prefix" (R80). -/
def numberValue : List Char → Option Nat
  | [] => none
  | ['0', 'x'] => none
  | '0' :: 'x' :: rest => digitsValue 16 rest 0
  | c :: rest => digitsValue 10 (c :: rest) 0

/-- A number written for an instance of width `k`: it "must fit in W bits unsigned" (R80). -/
def numberFits (k : Width) (n : Nat) : Option (BitVec 64) :=
  if n < 2 ^ k.bits then some (BitVec.ofNat 64 n) else none

/-- The command a mnemonic and its number, if any, write (R80). -/
def assemble (k : Width) (mnemonic : String) (number : Option Nat) : Option Instr :=
  match number with
  | some n =>
    if mnemonic = "SEED_SCALAR" then (numberFits k n).map .seedScalar
    else if mnemonic = "SEED_ARRAY" then (numberFits k n).map .seedArray
    else none
  | none =>
    if mnemonic = "NEXT_RAW" then some .nextRaw
    else if mnemonic = "NEXT_SIGNED" then some .nextSigned
    else if mnemonic = "NEXT_REAL_CLOSED01" then some .nextRealClosed01
    else if mnemonic = "NEXT_REAL_HALFOPEN01" then some .nextRealHalfopen01
    else if mnemonic = "NEXT_REAL_OPEN01" then some .nextRealOpen01
    else none

/-- The host action that issues a command, its encoding on the command port (R70, R74). -/
def issue (k : Width) (i : Instr) : HostAction k := .command (encode k i).1 (encode k i).2

/-- `SEED_KEYS {k0, ..., k(L-1)}`: the key writes in index order, then `SEED_ARRAY L`; only for
`1 ≤ L ≤ KEY_LEN_MAX` and an `L` that fits in ARG (R82). -/
def seedKeys (k : Width) (keyMax : Nat) (keys : List (Word k)) : Option (List (HostAction k)) :=
  if 1 ≤ keys.length ∧ keys.length ≤ keyMax ∧ keys.length < 2 ^ k.bits then
    some (keys.mapIdx HostAction.writeKey ++ [issue k (.seedArray (BitVec.ofNat 64 keys.length))])
  else none

/-- A host program on one instance (R80 to R82). -/
inductive HostProgram (k : Width) where
  | command (i : Instr)
  | writeKey (idx : Nat) (data : Word k)
  | reset
  | seedKeys (keys : List (Word k))
  | seq (first second : HostProgram k)
  | repeated (n : Nat) (body : HostProgram k)
  deriving DecidableEq, Repr

/-- The host actions a program stands for, in order (R81, R82); none where its notation is not defined. -/
def expand (k : Width) (keyMax : Nat) : HostProgram k → Option (List (HostAction k))
  | .command i => if i.wf k then some [issue k i] else none
  | .writeKey idx data => some [.writeKey idx data]
  | .reset => some [.reset]
  | .seedKeys keys => seedKeys k keyMax keys
  | .seq p q =>
    match expand k keyMax p, expand k keyMax q with
    | some a, some b => some (a ++ b)
    | _, _ => none
  | .repeated n p => (expand k keyMax p).map fun a => (List.replicate n a).flatten

/-- The machine with a host program for instance `k` added after the interactions already pending. -/
def State.withProgram (s : State) (k : Width) (actions : List (HostAction k)) : State :=
  { s with inputs := s.inputs ++ actions.map (HostInput.to k) }

end Sys2Proof.Machine
end

