-- ==== Sys2Proof/Safety.lean ====
section
/-! DEFINITION. What claims speak of: the invariant of the machine (spec R8, R21, R23, R70, R131, R181), the
responses a run delivers (R72), the end and the observation of a run of one instance (R212), and runs of decoded
commands on one port. -/

namespace Sys2Proof.Machine

/-- The invariant of one instance. -/
structure EngineInv {k : Width} (e : Engine k) : Prop where
  /-- "values above `N` are never formed" (R21). -/
  cursor_le : e.cursor.toNat ≤ k.N
  /-- "`initialized = 0` implies `cursor = N`" (R131). -/
  unseeded : e.initialized = false → e.cursor.toNat = k.N
  /-- No command is outstanding between steps: a command is one atomic step (R70). -/
  ready : e.cmdReady = true
  /-- `KEY_LEN_MAX` is at least 1 (R8). -/
  keys : Memory.wf e.kmem = true
  /-- "When `RSP_STATUS` is not `OK`, `RSP_DATA = 0`" (R73, R181). -/
  error_data : e.rspStatus ≠ 0 → e.rspData = 0

/-- The invariant of the machine: that of both instances, and no step delivers responses on both. The last is the
model's choice, not the spec's: a step performs one interaction, and `rsp_valid` falls on both instances when it begins
(logs 7 and 8); R191 lets the instances run at the same time. -/
structure Inv (s : State) : Prop where
  engine32 : EngineInv s.engine32
  engine64 : EngineInv s.engine64
  one_response : ¬ (s.engine32.rspValid = true ∧ s.engine64.rspValid = true)

/-- A response as the host takes it from a response port (R72). -/
structure Response where
  port : Width
  data : BitVec 64
  status : BitVec 2
  deriving DecidableEq, Repr

/-- The response an instance delivers in the step that led to its state, if any (R72). -/
def engineResponse {k : Width} (e : Engine k) : List Response :=
  if e.rspValid then [{ port := k, data := e.rspData, status := e.rspStatus }] else []

/-- The responses delivered by the step that led to `s` (R72). -/
def delivered (s : State) : List Response := engineResponse s.engine32 ++ engineResponse s.engine64

/-- The responses of a run of `n` steps, in order, those of both instances together (log 8). A refusal ends the run. -/
def responses : Nat → State → List Response
  | 0, _ => []
  | n + 1, s =>
    match step s with
    | .next t => delivered t ++ responses n t
    | .fault _ => []
    | .refused _ => []

/-! ### The run of a host program on one instance (R212) -/

/-- What R212 says is observed of a run on one instance: its responses `(RSP_DATA, RSP_STATUS)` in order, and the final
`(words, cursor, initialized)`. -/
structure Observation (k : Width) where
  responses : List (BitVec 64 × BitVec 2)
  words : StateVector k
  cursor : BitVec k.cursorBits
  initialized : Bool
  deriving DecidableEq, Repr

/-- What is observed of an instance with no step still to come. -/
def Observation.final {k : Width} (e : Engine k) : Observation k where
  responses := []
  words := e.words
  cursor := e.cursor
  initialized := e.initialized

/-- The response an instance delivers in the step that led to its state, as R212 observes it. -/
def observedResponse {k : Width} (e : Engine k) : List (BitVec 64 × BitVec 2) :=
  if e.rspValid then [(e.rspData, e.rspStatus)] else []

/-- An observation with earlier responses put before its own. -/
def Observation.after {k : Width} (earlier : List (BitVec 64 × BitVec 2)) (o : Observation k) : Observation k :=
  { o with responses := earlier ++ o.responses }

/-- What is observed of the instance of width `k` over `n` steps; none where the host breaks a duty (R71, R204, R205). -/
def observe (k : Width) : Nat → State → Option (Observation k)
  | 0, s => some (Observation.final (s.engine k))
  | n + 1, s =>
    match step s with
    | .next t => (observe k n t).map (Observation.after (observedResponse (t.engine k)))
    | .fault _ => none
    | .refused _ => none

/-- Whether a host interaction is addressed to the instance of width `k`. -/
def addressedTo (k : Width) : HostInput → Bool
  | .to p _ => decide (p = k)

/-- Whether a host interaction issues a command on the instance of width `k`. -/
def commandOn (k : Width) : HostInput → Bool
  | .to p (.command _ _) => decide (p = k)
  | .to _ (.writeKey _ _) => false
  | .to _ .reset => false

/-- Where a run on the instance of width `k` ends: the number of steps after which "the host has issued its last command
and that command's response has been delivered" (R212); 0 when no command is issued on it. -/
def runEnd (k : Width) : List HostInput → Nat
  | [] => 0
  | x :: rest => if 0 < runEnd k rest ∨ commandOn k x = true then runEnd k rest + 1 else 0

/-- `s` with a `RESET` of the instance of width `k` and then `actions` on it as the host's interactions: "the sequence of
host interactions of rule R211 from a `RESET`" (R212). -/
def State.fromReset (s : State) (k : Width) (actions : List (HostAction k)) : State :=
  { s with inputs := .to k .reset :: actions.map (HostInput.to k) }

/-- The observation of the run of `actions` on the instance of width `k` (R212): the `RESET`, then the actions to the end
of the run; those after the last command are no part of it. -/
def runObservation (k : Width) (actions : List (HostAction k)) (s : State) : Option (Observation k) :=
  observe k (runEnd k (actions.map (HostInput.to k)) + 1) (s.fromReset k actions)

/-- The observation of the run of a host program (R80 to R82, R212); none where its notation is not defined. -/
def programObservation (k : Width) (p : HostProgram k) (s : State) : Option (Observation k) :=
  (expand k (keyLenMax (s.engine k).kmem) p).bind fun actions => runObservation k actions s

/-- The commands of a list of host interactions, each by the port it is issued on, in issue order (R72, R211). -/
def commandPorts : List HostInput → List Width
  | [] => []
  | .to k (.command _ _) :: rest => k :: commandPorts rest
  | .to _ (.writeKey _ _) :: rest => commandPorts rest
  | .to _ .reset :: rest => commandPorts rest

/-- A host interaction that keeps the duty of R71 in `s`: a key write is at an index below `KEY_LEN_MAX`. -/
def keepsDuty (s : State) : HostInput → Bool
  | .to k (.writeKey idx _) => decide (idx < keyLenMax (s.engine k).kmem)
  | .to _ (.command _ _) => true
  | .to _ .reset => true

/-- What one instance shows of its last response: `RSP_DATA` and `RSP_STATUS` of the port in use (R24). -/
def portResponse (s : State) : BitVec 64 × BitVec 2 :=
  ((s.engine s.port).rspData, (s.engine s.port).rspStatus)

/-- The state after a list of commands performed in order on the port in use (R58); `none` if one stops. -/
def execAll : List Instr → State → Option State
  | [], s => some s
  | i :: rest, s =>
    match exec i s with
    | .next t => execAll rest t
    | .fault _ => none
    | .refused _ => none

/-- The responses to a list of commands performed in order on the port in use (R58, R72). -/
def execResponses : List Instr → State → List (BitVec 64 × BitVec 2)
  | [], _ => []
  | i :: rest, s =>
    match exec i s with
    | .next t => portResponse t :: execResponses rest t
    | .fault _ => []
    | .refused _ => []

end Sys2Proof.Machine
end

