-- ==== Sys2Proof/Certificates/Slice0/Obligations.lean ====
section
/-! DEFINITION. The statements about the machine, from the numbered rules of spec/. The constants are written here
again from the tables of R6 and R7, and the recurrences from the rules' text, so that a statement compares the model
with the rule and not with itself. -/

namespace Sys2Proof.Rules

open Sys2Proof.Machine

variable {k : Width}

/-! ### The constants of R6 and R7, from the hexadecimal column -/

/-- `F_SEED` (R7). -/
def fSeed : (k : Width) → Word k
  | .w32 => 0x6C078965#32
  | .w64 => 0x5851F42D4C957F2D#64

/-- `B_MIX` (R7). -/
def bMix : (k : Width) → Word k
  | .w32 => 0x0019660D#32
  | .w64 => 0x369DEA0F31A53F85#64

/-- `C_MIX` (R7). -/
def cMix : (k : Width) → Word k
  | .w32 => 0x5D588B65#32
  | .w64 => 0x27BB2EE687B0B0FD#64

/-- `MATRIX_A` (R7). -/
def matrixA : (k : Width) → Word k
  | .w32 => 0x9908B0DF#32
  | .w64 => 0xB5026F5AA96619E9#64

/-- `R_LOW` (R6). -/
def rLow : Nat := 31

/-- `DEFAULT_SEED` (R7). -/
def defaultSeed (k : Width) : Word k := BitVec.ofNat k.bits 0x1571

/-- `ARRAY_BASE_SEED` (R7). -/
def arrayBaseSeed (k : Width) : Word k := BitVec.ofNat k.bits 0x012BD6AA

/-- `MSB_FORCE = 2^(W-1)` (R6). -/
def msbForce (k : Width) : Word k := BitVec.ofNat k.bits (2 ^ (k.bits - 1))

/-! ### The recurrences -/

/-- `p ^ (p >> (W-2))` (R100, R104, R105). -/
def mix (p : Word k) : Word k := p ^^^ (p >>> (k.bits - 2))

/-- `words[0] = seed` and, for i = 1..N-1, `words[i] = F_SEED * (p ^ (p >> (W-2))) + i` with `p = words[i-1]`
(R100). -/
def ScalarSeeded (seed : Word k) (w : Nat → Word k) : Prop :=
  w 0 = seed ∧ ∀ i, 1 ≤ i → i < k.N → w i = fSeed k * mix (w (i - 1)) + BitVec.ofNat k.bits i

/-- The mixing value `x`: the upper `W - R_LOW` bits of `hi` and the lower `R_LOW` bits of `lo` (R130, R134). -/
def joined (hi lo : Word k) : Word k := ((hi >>> rLow) <<< rLow) ||| (lo &&& BitVec.ofNat k.bits (2 ^ rLow - 1))

/-- `(x >> 1) ^ (MATRIX_A if x[0] = 1 else 0)` (R130). -/
def timesA (x : Word k) : Word k := if x.toNat % 2 = 1 then (x >>> 1) ^^^ matrixA k else x >>> 1

/-- A whole twist, by the three ranges of R132: which words each step reads old and which new. -/
def Twisted (old new : Nat → Word k) : Prop :=
  (∀ i, i < k.N - k.M → new i = old (i + k.M) ^^^ timesA (joined (old i) (old (i + 1)))) ∧
  (∀ i, k.N - k.M ≤ i → i < k.N - 1 → new i = new (i + k.M - k.N) ^^^ timesA (joined (old i) (old (i + 1)))) ∧
  new (k.N - 1) = new (k.M - 1) ^^^ timesA (joined (old (k.N - 1)) (new 0))

/-- One write of a pass of array seeding at index `i`, then the advance of `i` with its wrap: at `N` the last word is
copied into `words[0]` and `i` becomes 1 (R104, R105). -/
def PassStep (i i' : Nat) (v : Word k) (w w' : Nat → Word k) : Prop :=
  w' i = v ∧
  (i + 1 < k.N → i' = i + 1 ∧ ∀ x, x < k.N → x ≠ i → w' x = w x) ∧
  (k.N ≤ i + 1 → i' = 1 ∧ w' 0 = w' (k.N - 1) ∧ ∀ x, x < k.N → x ≠ i → x ≠ 0 → w' x = w x)

/-- The key-mixing pass of R104 from `w 0`, the steps numbered from 0. -/
def KeyMixed (m : Memory k) (L : Nat) (w : Nat → Nat → Word k) (i j : Nat → Nat) : Prop :=
  i 0 = 1 ∧ j 0 = 0 ∧ ∀ n, n < max k.N L →
    PassStep (i n) (i (n + 1))
      ((w n (i n) ^^^ (mix (w n (i n - 1)) * bMix k)) + memRead m (j n) + BitVec.ofNat k.bits (j n))
      (w n) (w (n + 1)) ∧
    j (n + 1) = if j n + 1 < L then j n + 1 else 0

/-- The internal pass of R105 from `w 0` and index `i 0`, its `N - 1` steps numbered from 0. -/
def InternallyMixed (w : Nat → Nat → Word k) (i : Nat → Nat) : Prop :=
  ∀ n, n < k.N - 1 →
    PassStep (i n) (i (n + 1)) ((w n (i n) ^^^ (mix (w n (i n - 1)) * cMix k)) - BitVec.ofNat k.bits (i n))
      (w n) (w (n + 1))

/-! ### Frames and shapes -/

/-- What no command changes: the other instance, `KMEM`, the parameters, the host's pending interactions; and the
response has been delivered (R31, R53, R70, R72). -/
def CommandFrame (s t : State) : Prop :=
  (∀ j, j ≠ s.port → t.engine j = s.engine j) ∧
  (t.engine s.port).kmem = (s.engine s.port).kmem ∧
  (∀ j, memRead (t.engine s.port).kmem j = memRead (s.engine s.port).kmem j) ∧
  (t.engine s.port).resets = (s.engine s.port).resets ∧
  (t.engine s.port).cmdReady = true ∧ (t.engine s.port).rspValid = true ∧
  t.real32Form = s.real32Form ∧ t.port = s.port ∧ t.inputs = s.inputs

/-- A seeding command completed: `cursor = N`, `initialized = 1`, response 0 with `OK` (R100, R101, R103). -/
def SeededResponse (s t : State) : Prop :=
  (t.engine s.port).cursor.toNat = s.port.N ∧ (t.engine s.port).initialized = true ∧
  (t.engine s.port).rspData = 0 ∧ (t.engine s.port).rspStatus = 0

/-- A status other than `OK`: only the response is written (R181). -/
def OnlyResponse (code : BitVec 2) (s t : State) : Prop :=
  (t.engine s.port).rspStatus = code ∧ (t.engine s.port).rspData = 0 ∧
  (t.engine s.port).words = (s.engine s.port).words ∧ (t.engine s.port).cursor = (s.engine s.port).cursor ∧
  (t.engine s.port).initialized = (s.engine s.port).initialized ∧ CommandFrame s t

/-- What `extract()` does to `words`, `cursor` and `initialized`: nothing but `cursor + 1` while the batch lasts;
else the twist, of the default-seeded words when nothing was seeded, and `cursor = 1` (R131, R151). -/
def Extracts (s t : State) : Prop :=
  ((s.engine s.port).cursor.toNat < s.port.N →
    (t.engine s.port).words = (s.engine s.port).words ∧
    (t.engine s.port).cursor.toNat = (s.engine s.port).cursor.toNat + 1 ∧
    (t.engine s.port).initialized = (s.engine s.port).initialized) ∧
  (s.port.N ≤ (s.engine s.port).cursor.toNat →
    (t.engine s.port).cursor.toNat = 1 ∧ (t.engine s.port).initialized = true ∧
    ((s.engine s.port).initialized = true →
      Twisted (readWord (s.engine s.port).words) (readWord (t.engine s.port).words)) ∧
    ((s.engine s.port).initialized = false → ∃ w, ScalarSeeded (defaultSeed s.port) w ∧
      Twisted w (readWord (t.engine s.port).words)))

/-- The raw value the output command that led to `t` extracted: the tempered word below the cursor (R151). -/
def rawTaken (t : State) (k : Width) : Word k :=
  temper (readWord (t.engine k).words ((t.engine k).cursor.toNat - 1))

/-- The common effect of the five output commands, all but `RSP_DATA` (R151, R160, R161). -/
def OutputEffect (s t : State) : Prop :=
  Extracts s t ∧ (t.engine s.port).rspStatus = 0 ∧ CommandFrame s t

/-- The next interaction is a command on the instance of width `k` that decodes to one with property `p`. -/
def TakesCommand (s : State) (k : Width) (p : Instr → Prop) : Prop :=
  ∃ cmd arg rest i, s.inputs = .to k (.command cmd arg) :: rest ∧ decode k cmd arg = .ok i ∧ p i

/-- `r` is a finite non-negative binary64 value nearest to `num / den` units of `2^-1074`, and where another one is as near,
the one with an even last bit: the rounding of R11. -/
def NearestEven (r : BitVec 64) (num den : Nat) : Prop :=
  r.toNat < 0x7FF0000000000000 ∧ ∀ b : BitVec 64, b.toNat < 0x7FF0000000000000 →
    ((f64Units r * den : Int) - num).natAbs ≤ ((f64Units b * den : Int) - num).natAbs ∧
    (((f64Units r * den : Int) - num).natAbs = ((f64Units b * den : Int) - num).natAbs → b ≠ r →
      r.getLsbD 0 = false)

/-- Whether the real conversions of an instance scale all 32 bits (R157). -/
def ScalesAllBits (s : State) : Prop := s.port = .w32 ∧ s.real32Form = .mt19937ar

end Sys2Proof.Rules

open Sys2Proof Sys2Proof.Machine Sys2Proof.Rules

/-! ### Seeding -/

/-- R100, R101: SEED_SCALAR, CMD 0x01, fills `words` by the recurrence from its whole ARG word, whatever the state
before; it always completes with `OK`. -/
def Obligations.ScalarSeedingFillsByRecurrence : Prop :=
  ∀ (s : State) (arg : Word s.port),
    decode s.port 0x01#8 arg = .ok (.seedScalar (arg.setWidth 64)) ∧
    ∃ t, exec (.seedScalar (arg.setWidth 64)) s = .next t ∧
      ScalarSeeded arg (readWord (t.engine s.port).words) ∧ SeededResponse s t ∧ CommandFrame s t

/-- Corner cases of R102: seed 0 and the all-ones seed. -/
def Obligations.ScalarSeedCornerValues : Prop :=
  (∀ s : State, ∃ t, exec (.seedScalar 0) s = .next t ∧ readWord (t.engine s.port).words 0 = 0 ∧
    readWord (t.engine s.port).words 1 = 1 ∧
    (s.port = .w32 → readWord t.engine32.words 2 = 1812433255#32)) ∧
  (∀ s : State, ∃ t, exec (.seedScalar (BitVec.allOnes 64)) s = .next t ∧
    readWord (t.engine s.port).words 0 = BitVec.allOnes s.port.bits ∧
    readWord (t.engine s.port).words 1 = fSeed s.port * BitVec.ofNat s.port.bits (2 ^ s.port.bits - 4) + 1)

/-- R107, R183, R184: SEED_ARRAY with `L = 0` or `L > KEY_LEN_MAX` completes with its status and changes nothing but
the response. -/
def Obligations.SeedArrayRejectsBadLength : Prop :=
  (∀ s : State, ∃ t, exec (.seedArray 0) s = .next t ∧ OnlyResponse 2 s t) ∧
  (∀ (s : State) (arg : Word s.port), keyLenMax (s.engine s.port).kmem < arg.toNat →
    ∃ t, exec (.seedArray (arg.setWidth 64)) s = .next t ∧ OnlyResponse 3 s t)

/-- R104, R105, R106: SEED_ARRAY with `1 ≤ L ≤ KEY_LEN_MAX` runs the baseline fill, `max(N, L)` key-mixing steps and
`N - 1` internal steps, in the order of the rules, then forces `words[0]`; the index each pass ends with is the one the
rules name. -/
def Obligations.SeedArrayRunsBothPasses : Prop :=
  ∀ (s : State) (arg : Word s.port), 1 ≤ arg.toNat → arg.toNat ≤ keyLenMax (s.engine s.port).kmem →
    ∃ (t : State) (w w' : Nat → Nat → Word s.port) (i j i' : Nat → Nat),
      exec (.seedArray (arg.setWidth 64)) s = .next t ∧
      ScalarSeeded (arrayBaseSeed s.port) (w 0) ∧
      KeyMixed (s.engine s.port).kmem arg.toNat w i j ∧
      i' 0 = i (max s.port.N arg.toNat) ∧ (∀ x, x < s.port.N → w' 0 x = w (max s.port.N arg.toNat) x) ∧
      i' 0 = 1 + max s.port.N arg.toNat % (s.port.N - 1) ∧
      InternallyMixed w' i' ∧ (arg.toNat ≤ s.port.N → i' (s.port.N - 1) = 2) ∧
      (∀ x, 0 < x → x < s.port.N → readWord (t.engine s.port).words x = w' (s.port.N - 1) x) ∧
      readWord (t.engine s.port).words 0 = msbForce s.port ∧
      SeededResponse s t ∧ CommandFrame s t

/-- The closed form the rules give for `L ≤ N` ("For `L <= N` the pass writes ..." in R104 and R105): `b` the baseline,
`p` the words of the first `N - 1` key-mixing steps, `m` those after the last one. -/
def Obligations.SeedArrayShortKeysClosedForm : Prop :=
  ∀ (s : State) (arg : Word s.port), 1 ≤ arg.toNat → arg.toNat ≤ s.port.N →
    arg.toNat ≤ keyLenMax (s.engine s.port).kmem →
    ∃ (t : State) (b p m : Nat → Word s.port),
      exec (.seedArray (arg.setWidth 64)) s = .next t ∧
      ScalarSeeded (arrayBaseSeed s.port) b ∧
      p 0 = b 0 ∧
      (∀ i, 1 ≤ i → i < s.port.N → p i = (b i ^^^ (mix (p (i - 1)) * bMix s.port))
        + memRead (s.engine s.port).kmem ((i - 1) % arg.toNat) + BitVec.ofNat s.port.bits ((i - 1) % arg.toNat)) ∧
      m 0 = p (s.port.N - 1) ∧
      m 1 = (p 1 ^^^ (mix (m 0) * bMix s.port)) + memRead (s.engine s.port).kmem ((s.port.N - 1) % arg.toNat)
        + BitVec.ofNat s.port.bits ((s.port.N - 1) % arg.toNat) ∧
      (∀ i, 2 ≤ i → i < s.port.N → m i = p i) ∧
      readWord (t.engine s.port).words 0 = msbForce s.port ∧
      readWord (t.engine s.port).words 2 = (m 2 ^^^ (mix (m 1) * cMix s.port)) - 2 ∧
      (∀ i, 3 ≤ i → i < s.port.N → readWord (t.engine s.port).words i
        = (m i ^^^ (mix (readWord (t.engine s.port).words (i - 1)) * cMix s.port)) - BitVec.ofNat s.port.bits i) ∧
      readWord (t.engine s.port).words 1
        = (m 1 ^^^ (mix (readWord (t.engine s.port).words (s.port.N - 1)) * cMix s.port)) - 1

/-- End of R104 (conflict C9): where the key-mixing pass leaves its indices, for every `L ≥ 1`. -/
def Obligations.KeyMixPassEndIndices : Prop :=
  ∀ (k : Width) (m : Memory k) (L : Nat) (ws : StateVector k), 1 ≤ L →
    (keyMixPass m L ws).i = 1 + max k.N L % (k.N - 1) ∧ (keyMixPass m L ws).j = max k.N L % L

/-- R110: no seeding path leaves the all-zero vector: SEED_SCALAR, an accepted SEED_ARRAY, and the lazy default
seeding. -/
def Obligations.SeedingNeverLeavesZeroVector : Prop :=
  (∀ (s : State) (arg : BitVec 64), ∃ t, exec (.seedScalar arg) s = .next t ∧
    ∃ i, i < s.port.N ∧ readWord (t.engine s.port).words i ≠ 0) ∧
  (∀ (s : State) (arg : Word s.port), 1 ≤ arg.toNat → arg.toNat ≤ keyLenMax (s.engine s.port).kmem →
    ∃ t, exec (.seedArray (arg.setWidth 64)) s = .next t ∧
      ∃ i, i < s.port.N ∧ readWord (t.engine s.port).words i ≠ 0) ∧
  (∀ (k : Width) (e : Engine k), ∃ i, i < k.N ∧ readWord (defaultSeeding e).words i ≠ 0)

/-- R109, first half, with R51's "never reads an element at or above `L`": an accepted seeding gives the same `words`,
`cursor` and `initialized` whatever the states before, the keys below `L` being equal. -/
def Obligations.SeedingForgetsPriorState : Prop :=
  ∀ s₁ s₂ : State, s₁.port = s₂.port →
    (∀ arg, ∃ t₁ t₂, exec (.seedScalar arg) s₁ = .next t₁ ∧ exec (.seedScalar arg) s₂ = .next t₂ ∧
      (∀ i, readWord (t₁.engine s₁.port).words i = readWord (t₂.engine s₁.port).words i) ∧
      (t₁.engine s₁.port).cursor = (t₂.engine s₁.port).cursor ∧
      (t₁.engine s₁.port).initialized = (t₂.engine s₁.port).initialized) ∧
    (∀ arg : Word s₁.port, 1 ≤ arg.toNat → arg.toNat ≤ keyLenMax (s₁.engine s₁.port).kmem →
      arg.toNat ≤ keyLenMax (s₂.engine s₁.port).kmem →
      (∀ j, j < arg.toNat → memRead (s₁.engine s₁.port).kmem j = memRead (s₂.engine s₁.port).kmem j) →
      ∃ t₁ t₂, exec (.seedArray (arg.setWidth 64)) s₁ = .next t₁ ∧
        exec (.seedArray (arg.setWidth 64)) s₂ = .next t₂ ∧
        (∀ i, readWord (t₁.engine s₁.port).words i = readWord (t₂.engine s₁.port).words i) ∧
        (t₁.engine s₁.port).cursor = (t₂.engine s₁.port).cursor ∧
        (t₁.engine s₁.port).initialized = (t₂.engine s₁.port).initialized)

/-- R109, second half: after the same accepted seeding, with the same whole `KMEM` and `REAL32_FORM`, identical command
sequences, SEED_ARRAY commands among them, get identical responses, whatever `words`, `cursor` and `initialized` were. -/
def Obligations.ReseededInstancesRunInLockStep : Prop :=
  ∀ (s₁ s₂ : State) (seed : Instr) (cmds : List Instr), s₁.port = s₂.port → s₁.real32Form = s₂.real32Form →
    (s₁.engine s₁.port).kmem = (s₂.engine s₁.port).kmem →
    ((∃ arg, seed = .seedScalar arg) ∨ ∃ arg : Word s₁.port, seed = .seedArray (arg.setWidth 64) ∧
      1 ≤ arg.toNat ∧ arg.toNat ≤ keyLenMax (s₁.engine s₁.port).kmem) →
    execResponses (seed :: cmds) s₁ = execResponses (seed :: cmds) s₂ ∧
    (execResponses (seed :: cmds) s₁).length = cmds.length + 1

/-- R109, second half, in the form that asks for `KMEM[0..L-1]` only: after the same accepted SEED_ARRAY of `L` keys equal
below `L`, identical sequences of commands other than SEED_ARRAY get identical responses, the rest of the two key memories
and their `KEY_LEN_MAX` differing as they may. -/
def Obligations.KeysBelowLengthDecideTheStream : Prop :=
  ∀ (s₁ s₂ : State) (arg : Word s₁.port) (cmds : List Instr), s₁.port = s₂.port → s₁.real32Form = s₂.real32Form →
    1 ≤ arg.toNat → arg.toNat ≤ keyLenMax (s₁.engine s₁.port).kmem → arg.toNat ≤ keyLenMax (s₂.engine s₁.port).kmem →
    (∀ j, j < arg.toNat → memRead (s₁.engine s₁.port).kmem j = memRead (s₂.engine s₁.port).kmem j) →
    (∀ a, .seedArray a ∉ cmds) →
    execResponses (.seedArray (arg.setWidth 64) :: cmds) s₁ = execResponses (.seedArray (arg.setWidth 64) :: cmds) s₂ ∧
    (execResponses (.seedArray (arg.setWidth 64) :: cmds) s₁).length = cmds.length + 1

/-- R108: the lazy default seeding has the effect of a SEED_SCALAR 5489 issued just before the output command. -/
def Obligations.LazyDefaultEqualsSeedScalar5489 : Prop :=
  ∀ (s : State) (i : Instr), i.isOutput = true → (s.engine s.port).initialized = false →
    s.port.N ≤ (s.engine s.port).cursor.toNat →
    ∃ t u, exec i s = .next t ∧ exec (.seedScalar 5489) s = .next u ∧ exec i u = .next t

/-! ### The twist -/

/-- R130: `twist()` regenerates the words in place in increasing index, reading as R132's three ranges say, sets
`cursor` to 0 and writes nothing else. -/
def Obligations.TwistReadsInThreeRanges : Prop :=
  ∀ (k : Width) (e : Engine k), Twisted (readWord e.words) (readWord (twist e).words) ∧
    (twist e).cursor = 0 ∧ (twist e).initialized = e.initialized ∧ (twist e).rspData = e.rspData ∧
    (twist e).rspStatus = e.rspStatus ∧ (twist e).kmem = e.kmem

/-- R136: the twist is linear over GF(2), and the zero vector is a fixed point. -/
def Obligations.TwistIsLinearAndFixesZero : Prop :=
  ∀ k : Width,
    (∀ u v w : StateVector k, (∀ i, i < k.N → readWord w i = readWord u i ^^^ readWord v i) →
      ∀ i, i < k.N → readWord (twistWords w) i = readWord (twistWords u) i ^^^ readWord (twistWords v) i) ∧
    (∀ u : StateVector k, (∀ i, i < k.N → readWord u i = 0) → ∀ i, i < k.N → readWord (twistWords u) i = 0)

/-- R134: the twist never reads the `R_LOW` lower bits of the old `words[0]`. -/
def Obligations.TwistIgnoresLowBitsOfFirstWord : Prop :=
  ∀ (k : Width) (u v : StateVector k), readWord u 0 >>> rLow = readWord v 0 >>> rLow →
    (∀ i, 1 ≤ i → i < k.N → readWord u i = readWord v i) → twistWords u = twistWords v

/-- R137: counting output commands from 1 after a seeding (`cursor = N`), command number `c` twists exactly when
`c mod N = 1`; the cursor after `n` of them is the count within the batch. -/
def Obligations.TwistPositionsInStream : Prop :=
  ∀ (s : State) (outs : List Instr), (s.engine s.port).cursor.toNat = s.port.N →
    (∀ i, i ∈ outs → i.isOutput = true) →
    ∃ t, execAll outs s = some t ∧ t.port = s.port ∧
      (outs ≠ [] → (t.engine s.port).cursor.toNat = (outs.length - 1) % s.port.N + 1) ∧
      (s.port.N ≤ (t.engine s.port).cursor.toNat ↔ (outs.length + 1) % s.port.N = 1)

/-! ### Output -/

/-- R131, R151: every output command first twists if the batch is exhausted, after the lazy default seeding if nothing was
seeded, then takes exactly one word and adds exactly 1 to `cursor`; it always completes, with `OK`. -/
def Obligations.OutputCommandsExtractOneWord : Prop :=
  ∀ (s : State) (i : Instr), i.isOutput = true → ∃ t, exec i s = .next t ∧ OutputEffect s t

/-- R152: NEXT_RAW returns the tempered word zero-extended, and every W-bit value can be returned. -/
def Obligations.NextRawReturnsTemperedWord : Prop :=
  (∀ (s : State) (arg : Word s.port), decode s.port 0x03#8 arg = .ok .nextRaw ∧
    ∃ t, exec .nextRaw s = .next t ∧ OutputEffect s t ∧
      (t.engine s.port).rspData = (rawTaken t s.port).setWidth 64) ∧
  (∀ (k : Width) (v : Word k), ∃ s t, s.port = k ∧ exec .nextRaw s = .next t ∧
    (t.engine k).rspData = v.setWidth 64)

/-- R153: NEXT_SIGNED returns the raw value shifted right by one, so a value of `[0, 2^(W-1) - 1]`. -/
def Obligations.NextSignedReturnsShiftedWord : Prop :=
  ∀ (s : State) (arg : Word s.port), decode s.port 0x04#8 arg = .ok .nextSigned ∧
    ∃ t, exec .nextSigned s = .next t ∧ OutputEffect s t ∧
      (t.engine s.port).rspData.toNat = (rawTaken t s.port).toNat / 2 ∧
      (t.engine s.port).rspData.toNat ≤ 2 ^ (s.port.bits - 1) - 1

/-- R155, pseudocode: NEXT_REAL_CLOSED01 multiplies by the rounded reciprocal. -/
def Obligations.NextRealClosed01MultipliesByReciprocal : Prop :=
  ∀ (s : State) (arg : Word s.port), decode s.port 0x05#8 arg = .ok .nextRealClosed01 ∧
    ∃ t, exec .nextRealClosed01 s = .next t ∧ OutputEffect s t ∧
      (¬ ScalesAllBits s → (t.engine s.port).rspData
        = fmul (toF64 ((rawTaken t s.port).toNat / 2 ^ 11)) (recipF64 (2 ^ (s.port.bits - 11) - 1))) ∧
      (ScalesAllBits s → (t.engine s.port).rspData
        = fmul (toF64 (rawTaken t s.port).toNat) (recipF64 (2 ^ 32 - 1)))

/-- R156: NEXT_REAL_HALFOPEN01 returns exactly `k * 2^-n`, a binary64 value below 1.0. -/
def Obligations.NextRealHalfopen01IsExact : Prop :=
  ∀ (s : State) (arg : Word s.port), decode s.port 0x06#8 arg = .ok .nextRealHalfopen01 ∧
    ∃ t, exec .nextRealHalfopen01 s = .next t ∧ OutputEffect s t ∧
      (t.engine s.port).rspData.toNat < 0x3FF0000000000000 ∧
      (¬ ScalesAllBits s → f64Units (t.engine s.port).rspData * 2 ^ (s.port.bits - 11)
        = (rawTaken t s.port).toNat / 2 ^ 11 * f64Scale) ∧
      (ScalesAllBits s → f64Units (t.engine s.port).rspData * 2 ^ 32 = (rawTaken t s.port).toNat * f64Scale)

/-- R158: NEXT_REAL_OPEN01 returns exactly `(k + 0.5) * 2^-n`, a binary64 value strictly between 0.0 and 1.0. -/
def Obligations.NextRealOpen01IsExact : Prop :=
  ∀ (s : State) (arg : Word s.port), decode s.port 0x07#8 arg = .ok .nextRealOpen01 ∧
    ∃ t, exec .nextRealOpen01 s = .next t ∧ OutputEffect s t ∧
      0 < (t.engine s.port).rspData.toNat ∧ (t.engine s.port).rspData.toNat < 0x3FF0000000000000 ∧
      (¬ ScalesAllBits s → f64Units (t.engine s.port).rspData * 2 ^ (s.port.bits - 12 + 1)
        = (2 * ((rawTaken t s.port).toNat / 2 ^ 12) + 1) * f64Scale) ∧
      (ScalesAllBits s → f64Units (t.engine s.port).rspData * 2 ^ 33
        = (2 * (rawTaken t s.port).toNat + 1) * f64Scale)

/-- Corner cases of R155: the ends of the closed form for each `n`; which `k` reach 1.0, for n = 21 only the greatest and
for n = 53 the two greatest; the reciprocal constants; and
four `k` where the product differs from the correctly rounded quotient (V-F17 to V-F20). -/
def Obligations.ClosedFormEndValues : Prop :=
  (∀ n, n = 21 ∨ n = 32 ∨ n = 53 → scaleClosed (0, n) = 0 ∧ scaleClosed (2 ^ n - 1, n) = 0x3FF0000000000000#64) ∧
  (∀ k, k < 2 ^ 21 → (scaleClosed (k, 21) = 0x3FF0000000000000#64 ↔ k = 2 ^ 21 - 1)) ∧
  (∀ k, k < 2 ^ 53 → (scaleClosed (k, 53) = 0x3FF0000000000000#64 ↔ 2 ^ 53 - 2 ≤ k)) ∧
  scaleClosed (2 ^ 53 - 2, 53) = 0x3FF0000000000000#64 ∧
  scaleClosed (2 ^ 53 - 3, 53) = 0x3FEFFFFFFFFFFFFF#64 ∧
  scaleClosed (2 ^ 52 - 1, 53) = 0x3FE0000000000000#64 ∧
  scaleClosed (2049, 21) = 0x3F50020080100400#64 ∧
  rne (2 ^ 53 - 2) (2 ^ 53 - 1) = 0x3FEFFFFFFFFFFFFF#64 ∧ rne (2 ^ 53 - 3) (2 ^ 53 - 1) = 0x3FEFFFFFFFFFFFFE#64 ∧
  rne (2 ^ 52 - 1) (2 ^ 53 - 1) = 0x3FDFFFFFFFFFFFFF#64 ∧ rne 2049 (2 ^ 21 - 1) = 0x3F50020080100401#64 ∧
  recipF64 (2 ^ 53 - 1) = 0x3CA0000000000001#64 ∧ recipF64 (2 ^ 21 - 1) = 0x3EA0000080000400#64 ∧
  recipF64 (2 ^ 32 - 1) = 0x3DF0000000100000#64

/-- R155: the closed form is non-decreasing in `k`. Patterns of non-negative values are ordered as their values. -/
def Obligations.ClosedFormIsMonotone : Prop :=
  ∀ n k k', (n = 21 ∨ n = 32 ∨ n = 53) → k ≤ k' → k' < 2 ^ n →
    (scaleClosed (k, n)).toNat ≤ (scaleClosed (k', n)).toNat

/-- R185: no real output is a subnormal, infinite or NaN: each is +0.0 or a normal value, from pattern
0x0010000000000000 on and below that of infinity, for both widths and both values of `REAL32_FORM`. -/
def Obligations.RealOutputsAreZeroOrNormal : Prop :=
  ∀ (k : Width) (form : Real32Form) (r : Word k) (b : BitVec 64),
    (b = resultClosed01 form r ∨ b = resultHalfopen01 form r ∨ b = resultOpen01 form r) →
    b = 0 ∨ (0x0010000000000000 ≤ b.toNat ∧ b.toNat < 0x7FF0000000000000)

/-- R159: the ranges of the five outputs, for both widths and both values of `REAL32_FORM`. The patterns of binary64
values from +0.0 to 1.0 are the numbers from 0 to 0x3FF0000000000000, in the order of the values. -/
def Obligations.OutputRanges : Prop :=
  ∀ (k : Width) (form : Real32Form) (r : Word k),
    (resultClosed01 form r).toNat ≤ 0x3FF0000000000000 ∧
    (resultHalfopen01 form r).toNat < 0x3FF0000000000000 ∧
    (0 < (resultOpen01 form r).toNat ∧ (resultOpen01 form r).toNat < 0x3FF0000000000000) ∧
    (resultSigned r).toNat ≤ 2 ^ (k.bits - 1) - 1 ∧
    (resultRaw r).toNat ≤ 2 ^ k.bits - 1

/-- R11: `rne` rounds a rational in the range of finite values to a nearest one, and at equal distance to the one with
an even last bit. -/
def Obligations.RneRoundsToNearestEven : Prop :=
  ∀ num den : Nat, 0 < den → num * f64Scale ≤ den * f64Units 0x7FEFFFFFFFFFFFFF#64 →
    NearestEven (rne num den) (num * f64Scale) den

/-- R11: the binary64 operations on non-negative finite values, on which alone they are defined (log 12). A product or a
sum in the range of finite values is a value nearest to the exact one, ties to even; so is a reciprocal. `toF64` is exact
below `2^53`, and a product or a sum that is itself a finite binary64 value is that value. -/
def Obligations.FloatOperationsExactWhenRepresentable : Prop :=
  (∀ n, n < 2 ^ 53 → f64Units (toF64 n) = n * f64Scale) ∧
  (∀ d, 0 < d → NearestEven (recipF64 d) f64Scale d) ∧
  (∀ a b : BitVec 64, a.toNat < 0x7FF0000000000000 → b.toNat < 0x7FF0000000000000 →
    (f64Units a * f64Units b ≤ f64Units 0x7FEFFFFFFFFFFFFF#64 * f64Scale →
      NearestEven (fmul a b) (f64Units a * f64Units b) f64Scale) ∧
    (f64Units a + f64Units b ≤ f64Units 0x7FEFFFFFFFFFFFFF#64 →
      NearestEven (fadd a b) (f64Units a + f64Units b) 1)) ∧
  (∀ a b c : BitVec 64, a.toNat < 0x7FF0000000000000 → b.toNat < 0x7FF0000000000000 →
    c.toNat < 0x7FF0000000000000 → f64Units a * f64Units b = f64Units c * f64Scale → fmul a b = c) ∧
  (∀ a b c : BitVec 64, a.toNat < 0x7FF0000000000000 → b.toNat < 0x7FF0000000000000 →
    c.toNat < 0x7FF0000000000000 → f64Units a + f64Units b = f64Units c → fadd a b = c)

/-- R150: the four lines of `temper` with the constants of each width, and the examples V-M1 to V-M10. -/
def Obligations.TemperFollowsFourLines : Prop :=
  (∀ y : Word .w32,
    let a := y ^^^ ((y >>> 11) &&& 0xFFFFFFFF#32)
    let b := a ^^^ ((a <<< 7) &&& 0x9D2C5680#32)
    let c := b ^^^ ((b <<< 15) &&& 0xEFC60000#32)
    temper y = c ^^^ (c >>> 18)) ∧
  (∀ y : Word .w64,
    let a := y ^^^ ((y >>> 29) &&& 0x5555555555555555#64)
    let b := a ^^^ ((a <<< 17) &&& 0x71D67FFFEDA60000#64)
    let c := b ^^^ ((b <<< 37) &&& 0xFFF7EEE000000000#64)
    temper y = c ^^^ (c >>> 43)) ∧
  temper (k := .w32) 0#32 = 0#32 ∧
  temper (k := .w32) 1#32 = 0x00400091#32 ∧
  temper (k := .w32) 0x80000000#32 = 0x88102204#32 ∧
  temper (k := .w32) 0xFFFFFFFF#32 = 0x6FE01BF8#32 ∧
  temper (k := .w32) 0x12345678#32 = 0x2B7E4A2D#32 ∧
  temper (k := .w64) 0#64 = 0#64 ∧
  temper (k := .w64) 1#64 = 0x0040002000020801#64 ∧
  temper (k := .w64) 0x8000000000000000#64 = 0x8000000400100000#64 ∧
  temper (k := .w64) 0xFFFFFFFFFFFFFFFF#64 = 0x7BFEEEEFEFA1D577#64 ∧
  temper (k := .w64) 0x0123456789ABCDEF#64 = 0x2254DA7001198660#64

/-- R150: `temper` is a bijection on W-bit words and linear over GF(2). -/
def Obligations.TemperIsBijectiveAndLinear : Prop :=
  ∀ k : Width, Function.Bijective (temper (k := k)) ∧
    ∀ y z : Word k, temper (y ^^^ z) = temper y ^^^ temper z

/-- R160: two sequences of output commands of the same length leave the same state but for the last response data:
"replacing one output command by another in a sequence changes only that command's response". -/
def Obligations.OutputCommandsShareOneStream : Prop :=
  ∀ (s : State) (as bs : List Instr), as.length = bs.length → (∀ i, i ∈ as → i.isOutput = true) →
    (∀ i, i ∈ bs → i.isOutput = true) →
    ∃ t u, execAll as s = some t ∧ execAll bs s = some u ∧ t.port = s.port ∧ u.port = s.port ∧
      { t.engine s.port with rspData := 0 } = { u.engine s.port with rspData := 0 } ∧
      ∀ (c : Instr) (t' u' : State), c.isOutput = true → exec c t = .next t' → exec c u = .next u' →
        (t'.engine s.port).rspData = (u'.engine s.port).rspData

/-- R161: the output selector, all five results from one raw value `r`, the one `extract()` takes. -/
def Obligations.OutputSelectorTable : Prop :=
  ∀ s : State, ∃ r : Word s.port,
    (∃ t, exec .nextRaw s = .next t ∧ (t.engine s.port).rspStatus = 0 ∧ r = rawTaken t s.port ∧
      (t.engine s.port).rspData = r.setWidth 64) ∧
    (∃ t, exec .nextSigned s = .next t ∧ (t.engine s.port).rspStatus = 0 ∧
      (t.engine s.port).rspData = (r >>> 1).setWidth 64) ∧
    (∃ t, exec .nextRealClosed01 s = .next t ∧ (t.engine s.port).rspStatus = 0 ∧
      (¬ ScalesAllBits s → (t.engine s.port).rspData
        = fmul (toF64 (r >>> 11).toNat) (recipF64 (2 ^ (s.port.bits - 11) - 1))) ∧
      (ScalesAllBits s → (t.engine s.port).rspData = fmul (toF64 r.toNat) (recipF64 (2 ^ 32 - 1)))) ∧
    (∃ t, exec .nextRealHalfopen01 s = .next t ∧ (t.engine s.port).rspStatus = 0 ∧
      (¬ ScalesAllBits s → (t.engine s.port).rspData
        = fmul (toF64 (r >>> 11).toNat) (recipF64 (2 ^ (s.port.bits - 11)))) ∧
      (ScalesAllBits s → (t.engine s.port).rspData = fmul (toF64 r.toNat) (recipF64 (2 ^ 32)))) ∧
    (∃ t, exec .nextRealOpen01 s = .next t ∧ (t.engine s.port).rspStatus = 0 ∧
      (¬ ScalesAllBits s → (t.engine s.port).rspData
        = fmul (fadd (toF64 (r >>> 12).toNat) 0x3FE0000000000000#64) (recipF64 (2 ^ (s.port.bits - 12)))) ∧
      (ScalesAllBits s → (t.engine s.port).rspData
        = fmul (fadd (toF64 r.toNat) 0x3FE0000000000000#64) (recipF64 (2 ^ 32))))

/-- R157: `REAL32_FORM` does not affect NEXT_RAW, NEXT_SIGNED, seeding, the twist or any 64-bit output. -/
def Obligations.Real32FormAffectsOnly32BitReals : Prop :=
  ∀ (s : State) (form : Real32Form) (i : Instr),
    (s.port = .w64 ∨ i = .nextRaw ∨ i = .nextSigned ∨ i.isOutput = false) →
    ∃ t, exec i s = .next t ∧ exec i { s with real32Form := form } = .next { t with real32Form := form }

/-! ### Statuses -/

/-- R77, R182: every CMD value not in R76 changes no engine state and completes with `ILLEGAL_COMMAND` and data 0,
whatever ARG; the other instance keeps its state. -/
def Obligations.IllegalCommandsOnlyRespond : Prop :=
  ∀ (s : State) (k : Width) (cmd : BitVec 8) (arg : Word k) (rest : List HostInput),
    s.inputs = .to k (.command cmd arg) :: rest → (s.engine k).cmdReady = true →
    (cmd = 0x00#8 ∨ (0x08 ≤ cmd.toNat ∧ cmd.toNat ≤ 0x0F) ∨ 0x10 ≤ cmd.toNat) →
    ∃ t, step s = .next t ∧ (t.engine k).rspStatus = 1 ∧ (t.engine k).rspData = 0 ∧
      (t.engine k).words = (s.engine k).words ∧ (t.engine k).cursor = (s.engine k).cursor ∧
      (t.engine k).initialized = (s.engine k).initialized ∧ (t.engine k).kmem = (s.engine k).kmem ∧
      (t.engine k).rspValid = true ∧ (t.engine k).cmdReady = true ∧
      (∀ j, j ≠ k → { t.engine j with rspValid := false } = { s.engine j with rspValid := false }) ∧ t.inputs = rest

/-- R181: a command that completes with a status other than `OK` leaves `words`, `cursor`, `initialized` and `KMEM` as
they were and data 0, and the engine accepts the next command. -/
def Obligations.NonOkStatusLeavesStateUnchanged : Prop :=
  ∀ (s t : State) (k : Width) (cmd : BitVec 8) (arg : Word k) (rest : List HostInput),
    s.inputs = .to k (.command cmd arg) :: rest → step s = .next t → (t.engine k).rspStatus ≠ 0 →
    (t.engine k).rspData = 0 ∧ (t.engine k).words = (s.engine k).words ∧
      (t.engine k).cursor = (s.engine k).cursor ∧ (t.engine k).initialized = (s.engine k).initialized ∧
      (t.engine k).kmem = (s.engine k).kmem ∧ (t.engine k).cmdReady = true

/-- R180, R186: the status of every command, in the order of priority. -/
def Obligations.StatusByPriority : Prop :=
  ∀ (s : State) (k : Width) (cmd : BitVec 8) (arg : Word k) (rest : List HostInput),
    s.inputs = .to k (.command cmd arg) :: rest → (s.engine k).cmdReady = true →
    ∃ t, step s = .next t ∧ (t.engine k).rspStatus =
      if cmd.toNat = 0 ∨ 7 < cmd.toNat then 1
      else if cmd = 0x02#8 ∧ arg.toNat = 0 then 2
      else if cmd = 0x02#8 ∧ keyLenMax (s.engine k).kmem < arg.toNat then 3
      else 0

/-- R209 and the end of part 1 of 93: from a state of the invariant every step goes on, but for a key write the spec
refuses (R71). -/
def Obligations.StepsNeverStopOnCommands : Prop :=
  ∀ s : State, Inv s →
    (∃ t, step s = .next t) ∨
    ∃ k idx data rest, s.inputs = .to k (.writeKey idx data) :: rest ∧ keyLenMax (s.engine k).kmem ≤ idx ∧
      step s = .refused (.keyIndexOutOfRange k idx)

/-- R72: a step delivers exactly one response when it performs a command, that of the command's port, and none
otherwise. R72 speaks of one instance; that a step of the machine performs one interaction, and that `rsp_valid` falls on
both instances when it begins, is the model's choice (logs 7 and 8). -/
def Obligations.ExactlyOneResponsePerCommand : Prop :=
  ∀ s t : State, step s = .next t →
    (∀ k cmd arg rest, s.inputs = .to k (.command cmd arg) :: rest →
      delivered t = [{ port := k, data := (t.engine k).rspData, status := (t.engine k).rspStatus }]) ∧
    ((∀ k cmd arg rest, s.inputs ≠ .to k (.command cmd arg) :: rest) → delivered t = [])

/-- R58, R72: a run over the host's pending interactions delivers one response per command, in issue order, each on the
port its command came on. Those rules speak of one instance; the order across the two instances, and that they never
respond in one step, is the model's choice (logs 7 and 8). -/
def Obligations.RunAnswersEveryCommandInOrder : Prop :=
  ∀ s : State, Inv s → (∀ x, x ∈ s.inputs → keepsDuty s x = true) →
    (responses s.inputs.length s).map Response.port = commandPorts s.inputs

/-- R192: between commands an engine holds its state unchanged. A step with no interaction pending changes nothing of
either instance but `rsp_valid` (log 7); and a step that neither performs a command on an instance nor resets it keeps its
registers, and its `KMEM` too unless it is a key write on it. -/
def Obligations.EnginesHoldStateBetweenCommands : Prop :=
  (∀ s : State, s.inputs = [] → ∃ t, step s = .next t ∧
    (∀ k, t.engine k = { s.engine k with rspValid := false }) ∧ t.real32Form = s.real32Form ∧ t.inputs = []) ∧
  (∀ (s t : State) (k : Width), step s = .next t →
    (∀ cmd arg rest, s.inputs ≠ .to k (.command cmd arg) :: rest) → (∀ rest, s.inputs ≠ .to k .reset :: rest) →
    (t.engine k).words = (s.engine k).words ∧ (t.engine k).cursor = (s.engine k).cursor ∧
    (t.engine k).initialized = (s.engine k).initialized ∧ (t.engine k).rspData = (s.engine k).rspData ∧
    (t.engine k).rspStatus = (s.engine k).rspStatus ∧ (t.engine k).cmdReady = (s.engine k).cmdReady ∧
    ((∀ idx data rest, s.inputs ≠ .to k (.writeKey idx data) :: rest) → (t.engine k).kmem = (s.engine k).kmem))

/-- R204 (93 U11): a command, legal or not, issued while `cmd_ready = 0` is refused, on either port. -/
def Obligations.CommandsWhileBusyAreRefused : Prop :=
  ∀ (s : State) (k : Width) (cmd : BitVec 8) (arg : Word k) (rest : List HostInput),
    s.inputs = .to k (.command cmd arg) :: rest → (s.engine k).cmdReady = false →
    step s = .refused (.commandWhileBusy k)

/-! ### The run of a host program on one instance -/

/-- R211, R212: the run of a host that keeps its duty has an observation, with exactly one response per command of it; and
the run ends with its last command: interactions after that which issue no command are no part of it. -/
def Obligations.RunObservationHoldsEveryResponse : Prop :=
  ∀ (s : State) (k : Width) (acts tail : List (HostAction k)),
    (∀ a, a ∈ acts → keepsDuty s (.to k a) = true) → (∀ a, a ∈ tail → commandOn k (.to k a) = false) →
    ∃ o, runObservation k acts s = some o ∧
      o.responses.length = (commandPorts (acts.map (HostInput.to k))).length ∧
      runObservation k (acts ++ tail) s = some o

/-- R212, R200: the observation of a run does not depend on the state the `RESET` found: it is the same from any two
states with the same parameters, the free values of the reset being the same (the same reset count, log 6). -/
def Obligations.RunObservationStartsFromReset : Prop :=
  ∀ (s₁ s₂ : State) (k : Width) (acts : List (HostAction k)),
    keyLenMax (s₁.engine k).kmem = keyLenMax (s₂.engine k).kmem → s₁.real32Form = s₂.real32Form →
    (s₁.engine k).resets = (s₂.engine k).resets →
    runObservation k acts s₁ = runObservation k acts s₂

/-- R31, R191: what is observed of one instance is the same whichever interactions of the other instance stand between
its own: the order across instances, which the model fixes (log 8), is not observable on either. -/
def Obligations.InterleavingIsNotObservable : Prop :=
  ∀ (s : State) (k : Width) (xs : List HostInput), Inv s → (∀ x, x ∈ xs → keepsDuty s x = true) →
    observe k xs.length { s with inputs := xs }
      = observe k (xs.filter (addressedTo k)).length { s with inputs := xs.filter (addressedTo k) }

/-! ### The host, the key memory, reset -/

/-- R71: a key write inside `KMEM` writes that element and nothing else; one at or above `KEY_LEN_MAX` is refused; so is
one while a command is outstanding (R205). -/
def Obligations.HostKeyWriteWritesOneElement : Prop :=
  ∀ (s : State) (k : Width) (idx : Nat) (data : Word k) (rest : List HostInput),
    s.inputs = .to k (.writeKey idx data) :: rest →
    ((s.engine k).cmdReady = true → idx < keyLenMax (s.engine k).kmem →
      ∃ t, step s = .next t ∧ memRead (t.engine k).kmem idx = data ∧
        (∀ j, j ≠ idx → memRead (t.engine k).kmem j = memRead (s.engine k).kmem j) ∧
        keyLenMax (t.engine k).kmem = keyLenMax (s.engine k).kmem ∧
        { t.engine k with rspValid := false } = { s.engine k with kmem := (t.engine k).kmem, rspValid := false } ∧
        (∀ j, j ≠ k → { t.engine j with rspValid := false } = { s.engine j with rspValid := false }) ∧ t.inputs = rest) ∧
    ((s.engine k).cmdReady = true → keyLenMax (s.engine k).kmem ≤ idx →
      step s = .refused (.keyIndexOutOfRange k idx)) ∧
    ((s.engine k).cmdReady = false → step s = .refused (.keyWriteWhileBusy k))

/-- R53: no command changes a `KMEM`, legal or not, on either instance. -/
def Obligations.CommandsNeverWriteKeyMemory : Prop :=
  ∀ (s t : State) (k : Width) (cmd : BitVec 8) (arg : Word k) (rest : List HostInput),
    s.inputs = .to k (.command cmd arg) :: rest → step s = .next t →
    ∀ j, (t.engine j).kmem = (s.engine j).kmem

/-- R200: `RESET` puts the addressed instance, and it alone, into the reset state; also while a command is outstanding,
which then gets no response (R201). That `words` and `KMEM` are fresh free values at every reset is the model's choice
(logs 4 to 6), and so is the fall of the other instance's `rsp_valid` (log 7). -/
def Obligations.HostResetGivesResetState : Prop :=
  ∀ (s : State) (k : Width) (rest : List HostInput), s.inputs = .to k .reset :: rest →
    ∃ t, step s = .next t ∧ (t.engine k).initialized = false ∧ (t.engine k).cursor.toNat = k.N ∧
      (t.engine k).rspData = 0 ∧ (t.engine k).rspStatus = 0 ∧ (t.engine k).cmdReady = true ∧
      (t.engine k).rspValid = false ∧
      (∀ i, i < k.N → readWord (t.engine k).words i = Config.resetWord k ((s.engine k).resets + 1) i) ∧
      keyLenMax (t.engine k).kmem = keyLenMax (s.engine k).kmem ∧
      (∀ j, j < keyLenMax (s.engine k).kmem →
        memRead (t.engine k).kmem j = Config.resetKey k ((s.engine k).resets + 1) j) ∧
      (∀ j, j ≠ k → t.engine j = { s.engine j with rspValid := false }) ∧ t.inputs = rest

/-- R30, R200: what reset leaves in both instances; `KEY_LEN_MAX` is at least 1 (R8, log 2). -/
def Obligations.ResetStateValues : Prop :=
  ∀ k : Width, (State.reset.engine k).initialized = false ∧ (State.reset.engine k).cursor.toNat = k.N ∧
    (State.reset.engine k).rspData = 0 ∧ (State.reset.engine k).rspStatus = 0 ∧
    (State.reset.engine k).cmdReady = true ∧ (State.reset.engine k).rspValid = false ∧
    1 ≤ keyLenMax (State.reset.engine k).kmem

/-- R82: SEED_KEYS is defined exactly for `1 ≤ L ≤ KEY_LEN_MAX`, and for an `L` that fits in ARG, which is the model's
reading of R80 (log 13); its writes leave the keys in `KMEM[0..L-1]` and nothing else of either instance changed, and
SEED_ARRAY `L` comes next. The fall of `rsp_valid` is the model's reading of R72 (log 7). -/
def Obligations.SeedKeysLoadsKeysThenSeeds : Prop :=
  ∀ (s : State) (k : Width) (keys : List (Word k)), (s.engine k).cmdReady = true → s.inputs = [] →
    ((1 ≤ keys.length ∧ keys.length ≤ keyLenMax (s.engine k).kmem ∧ keys.length < 2 ^ k.bits) ↔
      (seedKeys k (keyLenMax (s.engine k).kmem) keys).isSome = true) ∧
    ∀ acts, seedKeys k (keyLenMax (s.engine k).kmem) keys = some acts →
      ∃ t, Host.Core.run Sys2Proof.core keys.length (s.withProgram k acts) = .next t ∧
        (∀ j (h : j < keys.length), memRead (t.engine k).kmem j = keys[j]) ∧
        (∀ j, keys.length ≤ j → memRead (t.engine k).kmem j = memRead (s.engine k).kmem j) ∧
        keyLenMax (t.engine k).kmem = keyLenMax (s.engine k).kmem ∧
        t.engine k = { s.engine k with kmem := (t.engine k).kmem, rspValid := false } ∧
        (∀ j, j ≠ k → t.engine j = { s.engine j with rspValid := false }) ∧
        t.real32Form = s.real32Form ∧ t.port = s.port ∧
        t.inputs = [.to k (.command 0x02#8 (BitVec.ofNat k.bits keys.length))]

/-- R208: the reset contents of `words` are never observable: two unseeded states that differ in `words` alone answer
every command sequence alike. -/
def Obligations.ResetWordsAreNeverObservable : Prop :=
  ∀ (s : State) (ws : StateVector s.port) (cmds : List Instr), (s.engine s.port).initialized = false →
    (s.engine s.port).cursor.toNat = s.port.N →
    execResponses cmds (s.setEngine s.port { s.engine s.port with words := ws }) = execResponses cmds s

/-- R31: a step whose interaction is addressed to one instance leaves the other as it was, but for its `rsp_valid` (which
falls in every step, the model's reading of R72, log 7), and what becomes of the first does not depend on the other. -/
def Obligations.InstancesShareNothing : Prop :=
  (∀ (s t : State) (k : Width) (a : HostAction k) (rest : List HostInput), s.inputs = .to k a :: rest →
    step s = .next t → ∀ j, j ≠ k → t.engine j = { s.engine j with rspValid := false }) ∧
  (∀ (s₁ s₂ t₁ : State) (k : Width) (a : HostAction k) (rest₁ rest₂ : List HostInput),
    s₁.inputs = .to k a :: rest₁ → s₂.inputs = .to k a :: rest₂ → s₁.engine k = s₂.engine k →
    s₁.real32Form = s₂.real32Form → step s₁ = .next t₁ →
    ∃ t₂, step s₂ = .next t₂ ∧ t₁.engine k = t₂.engine k)

/-! ### Encoding -/

/-- R77, R79: the decoder accepts exactly the seven values 0x01 to 0x07 of CMD, whatever ARG, at both widths. -/
def Obligations.DecodeAcceptsExactlySevenWords : Prop :=
  ∀ (k : Width) (cmd : BitVec 8) (arg : Word k),
    ((∃ i, decode k cmd arg = .ok i) ↔ 1 ≤ cmd.toNat ∧ cmd.toNat ≤ 7) ∧
    (∀ i, decode k cmd arg = .ok i → i.wf k = true)

/-- R74 to R76: decoding the words of a well-formed command gives it back, at both widths. -/
def Obligations.DecodeOfEncodeIsIdentity : Prop :=
  ∀ (k : Width) (i : Instr), i.wf k = true → decode k (encode k i).1 (encode k i).2 = .ok i

/-- R74 to R76: the words of a decoded command are the words it was decoded from, but for the ARG the output commands
ignore, which is written as 0 (R75, R80). -/
def Obligations.EncodeOfDecodeKeepsTheWords : Prop :=
  ∀ (k : Width) (cmd : BitVec 8) (arg : Word k) (i : Instr), decode k cmd arg = .ok i →
    (encode k i).1 = cmd ∧ (encode k i).2 = if i.isOutput then 0 else arg

/-- R76: the seven command words, written out bit by bit. -/
def Obligations.CommandWordsDecode : Prop :=
  decode .w32 0b00000001#8 0x00001571#32 = .ok (.seedScalar 5489) ∧
  decode .w64 0b00000010#8 0x0000000000000004#64 = .ok (.seedArray 4) ∧
  decode .w32 0b00000011#8 0xDEADBEEF#32 = .ok .nextRaw ∧
  decode .w32 0b00000100#8 0#32 = .ok .nextSigned ∧
  decode .w64 0b00000101#8 0#64 = .ok .nextRealClosed01 ∧
  decode .w64 0b00000110#8 0#64 = .ok .nextRealHalfopen01 ∧
  decode .w32 0b00000111#8 0#32 = .ok .nextRealOpen01 ∧
  decode .w32 0b00010011#8 0#32 = .error (.reservedBits 1)

/-- R70: a command taken from the port is accepted, its decoded instruction performed on that port's instance, and
nothing else of the machine changed before. That `rsp_valid` falls at the beginning of a step on both instances is the
model's reading of R72 (log 7). -/
def Obligations.StepRunsDecodedCommand : Prop :=
  ∀ (s : State) (k : Width) (cmd : BitVec 8) (arg : Word k) (rest : List HostInput) (i : Instr),
    s.inputs = .to k (.command cmd arg) :: rest → (s.engine k).cmdReady = true → decode k cmd arg = .ok i →
    ∃ u : State, step s = exec i u ∧ u.port = k ∧ u.inputs = rest ∧ u.real32Form = s.real32Form ∧
      u.engine k = { s.engine k with cmdReady := false, rspValid := false } ∧
      ∀ j, j ≠ k → u.engine j = { s.engine j with rspValid := false }

/-! ### Invariants -/

/-- The machine right after reset satisfies the invariant (R30, R200; its last clause is the model's, logs 7 and 8). -/
def Obligations.ResetSatisfiesInvariant : Prop := Inv State.reset

/-- Every step keeps the invariant (R8, R21, R70, R131, R181). Its last clause, that no step delivers responses on both
instances, is the model's choice (logs 7 and 8), which R191 does not ask for. -/
def Obligations.StepKeepsInvariant : Prop := ∀ s t : State, Inv s → step s = .next t → Inv t

/-- R2, R8: no step changes a parameter of an instance. -/
def Obligations.ParametersNeverChange : Prop :=
  ∀ s t : State, step s = .next t → t.real32Form = s.real32Form ∧
    ∀ k, keyLenMax (t.engine k).kmem = keyLenMax (s.engine k).kmem

/-- R22: `initialized` is cleared by a reset of its instance only, and is set only by a step that performs a command on
its instance. -/
def Obligations.InitializedClearedOnlyByReset : Prop :=
  ∀ (s t : State) (k : Width), step s = .next t →
    ((s.engine k).initialized = true → (t.engine k).initialized = false →
      ∃ rest, s.inputs = .to k .reset :: rest) ∧
    ((s.engine k).initialized = false → (t.engine k).initialized = true →
      ∃ cmd arg rest, s.inputs = .to k (.command cmd arg) :: rest)

/-- R21, R23, R135: how a step moves `cursor`, by cause. A step that performs an output command on an instance adds 1 while
the batch lasts, and from an exhausted batch leaves 1; one that performs a seeding command on it with status `OK`, or
resets it, leaves `N`; every other step leaves `cursor` as it was. -/
def Obligations.CursorMovesAsTheRulesAllow : Prop :=
  ∀ (s t : State) (k : Width), step s = .next t →
    (TakesCommand s k (fun i => i.isOutput = true) →
      ((s.engine k).cursor.toNat < k.N ∧ (t.engine k).cursor.toNat = (s.engine k).cursor.toNat + 1) ∨
      (k.N ≤ (s.engine k).cursor.toNat ∧ (t.engine k).cursor.toNat = 1)) ∧
    (TakesCommand s k (fun i => i.isOutput = false) → (t.engine k).rspStatus = 0 →
      (t.engine k).cursor.toNat = k.N) ∧
    ((∃ rest, s.inputs = .to k .reset :: rest) → (t.engine k).cursor.toNat = k.N) ∧
    (¬ TakesCommand s k (fun i => i.isOutput = true) →
      ¬ (TakesCommand s k (fun i => i.isOutput = false) ∧ (t.engine k).rspStatus = 0) →
      (¬ ∃ rest, s.inputs = .to k .reset :: rest) → (t.engine k).cursor = (s.engine k).cursor)
end

