-- ==== Sys2Proof/Laws/State.lean ====
section
/-! SUPPORT. One lemma per field per update of an instance and of the machine, so that no later proof unfolds a
record update. -/

namespace Sys2Proof.Machine

variable {k : Width}

/-! ### `respond`, `complete`, `raise` -/

@[simp] theorem respond_words (st : Status) (d : BitVec 64) (e : Engine k) : (respond st d e).words = e.words := rfl
@[simp] theorem respond_cursor (st : Status) (d : BitVec 64) (e : Engine k) : (respond st d e).cursor = e.cursor := rfl
@[simp] theorem respond_initialized (st : Status) (d : BitVec 64) (e : Engine k) : (respond st d e).initialized = e.initialized := rfl
@[simp] theorem respond_rspData (st : Status) (d : BitVec 64) (e : Engine k) : (respond st d e).rspData = d := rfl
@[simp] theorem respond_rspStatus (st : Status) (d : BitVec 64) (e : Engine k) : (respond st d e).rspStatus = statusCode st := rfl
@[simp] theorem respond_kmem (st : Status) (d : BitVec 64) (e : Engine k) : (respond st d e).kmem = e.kmem := rfl
@[simp] theorem respond_cmdReady (st : Status) (d : BitVec 64) (e : Engine k) : (respond st d e).cmdReady = true := rfl
@[simp] theorem respond_rspValid (st : Status) (d : BitVec 64) (e : Engine k) : (respond st d e).rspValid = true := rfl
@[simp] theorem respond_resets (st : Status) (d : BitVec 64) (e : Engine k) : (respond st d e).resets = e.resets := rfl

@[simp] theorem complete_words (d : BitVec 64) (e : Engine k) : (complete d e).words = e.words := rfl
@[simp] theorem complete_cursor (d : BitVec 64) (e : Engine k) : (complete d e).cursor = e.cursor := rfl
@[simp] theorem complete_initialized (d : BitVec 64) (e : Engine k) : (complete d e).initialized = e.initialized := rfl
@[simp] theorem complete_rspData (d : BitVec 64) (e : Engine k) : (complete d e).rspData = d := rfl
@[simp] theorem complete_rspStatus (d : BitVec 64) (e : Engine k) : (complete d e).rspStatus = 0 := rfl
@[simp] theorem complete_kmem (d : BitVec 64) (e : Engine k) : (complete d e).kmem = e.kmem := rfl
@[simp] theorem complete_cmdReady (d : BitVec 64) (e : Engine k) : (complete d e).cmdReady = true := rfl
@[simp] theorem complete_rspValid (d : BitVec 64) (e : Engine k) : (complete d e).rspValid = true := rfl
@[simp] theorem complete_resets (d : BitVec 64) (e : Engine k) : (complete d e).resets = e.resets := rfl

@[simp] theorem raise_words (st : Status) (e : Engine k) : (raise st e).words = e.words := rfl
@[simp] theorem raise_cursor (st : Status) (e : Engine k) : (raise st e).cursor = e.cursor := rfl
@[simp] theorem raise_initialized (st : Status) (e : Engine k) : (raise st e).initialized = e.initialized := rfl
@[simp] theorem raise_rspData (st : Status) (e : Engine k) : (raise st e).rspData = 0 := rfl
@[simp] theorem raise_rspStatus (st : Status) (e : Engine k) : (raise st e).rspStatus = statusCode st := rfl
@[simp] theorem raise_kmem (st : Status) (e : Engine k) : (raise st e).kmem = e.kmem := rfl
@[simp] theorem raise_cmdReady (st : Status) (e : Engine k) : (raise st e).cmdReady = true := rfl
@[simp] theorem raise_rspValid (st : Status) (e : Engine k) : (raise st e).rspValid = true := rfl
@[simp] theorem raise_resets (st : Status) (e : Engine k) : (raise st e).resets = e.resets := rfl

/-! ### `seeded`, `twist`, `advance` -/

@[simp] theorem seeded_words (ws : StateVector k) (e : Engine k) : (seeded ws e).words = ws := rfl
@[simp] theorem seeded_cursor (ws : StateVector k) (e : Engine k) : (seeded ws e).cursor = BitVec.ofNat k.cursorBits k.N := rfl
@[simp] theorem seeded_initialized (ws : StateVector k) (e : Engine k) : (seeded ws e).initialized = true := rfl
@[simp] theorem seeded_rspData (ws : StateVector k) (e : Engine k) : (seeded ws e).rspData = e.rspData := rfl
@[simp] theorem seeded_rspStatus (ws : StateVector k) (e : Engine k) : (seeded ws e).rspStatus = e.rspStatus := rfl
@[simp] theorem seeded_kmem (ws : StateVector k) (e : Engine k) : (seeded ws e).kmem = e.kmem := rfl
@[simp] theorem seeded_cmdReady (ws : StateVector k) (e : Engine k) : (seeded ws e).cmdReady = e.cmdReady := rfl
@[simp] theorem seeded_rspValid (ws : StateVector k) (e : Engine k) : (seeded ws e).rspValid = e.rspValid := rfl
@[simp] theorem seeded_resets (ws : StateVector k) (e : Engine k) : (seeded ws e).resets = e.resets := rfl

@[simp] theorem twist_words  (e : Engine k) : (twist e).words = twistWords e.words := rfl
@[simp] theorem twist_cursor  (e : Engine k) : (twist e).cursor = 0 := rfl
@[simp] theorem twist_initialized  (e : Engine k) : (twist e).initialized = e.initialized := rfl
@[simp] theorem twist_rspData  (e : Engine k) : (twist e).rspData = e.rspData := rfl
@[simp] theorem twist_rspStatus  (e : Engine k) : (twist e).rspStatus = e.rspStatus := rfl
@[simp] theorem twist_kmem  (e : Engine k) : (twist e).kmem = e.kmem := rfl
@[simp] theorem twist_cmdReady  (e : Engine k) : (twist e).cmdReady = e.cmdReady := rfl
@[simp] theorem twist_rspValid  (e : Engine k) : (twist e).rspValid = e.rspValid := rfl
@[simp] theorem twist_resets  (e : Engine k) : (twist e).resets = e.resets := rfl

@[simp] theorem advance_words  (e : Engine k) : (advance e).words = e.words := rfl
@[simp] theorem advance_cursor  (e : Engine k) : (advance e).cursor = e.cursor + 1 := rfl
@[simp] theorem advance_initialized  (e : Engine k) : (advance e).initialized = e.initialized := rfl
@[simp] theorem advance_rspData  (e : Engine k) : (advance e).rspData = e.rspData := rfl
@[simp] theorem advance_rspStatus  (e : Engine k) : (advance e).rspStatus = e.rspStatus := rfl
@[simp] theorem advance_kmem  (e : Engine k) : (advance e).kmem = e.kmem := rfl
@[simp] theorem advance_cmdReady  (e : Engine k) : (advance e).cmdReady = e.cmdReady := rfl
@[simp] theorem advance_rspValid  (e : Engine k) : (advance e).rspValid = e.rspValid := rfl
@[simp] theorem advance_resets  (e : Engine k) : (advance e).resets = e.resets := rfl

/-! ### An instance after a reset -/

@[simp] theorem afterReset_words (n len : Nat) : (Engine.afterReset k n len).words = resetWords k n := rfl
@[simp] theorem afterReset_cursor (n len : Nat) : (Engine.afterReset k n len).cursor = BitVec.ofNat k.cursorBits k.N := rfl
@[simp] theorem afterReset_initialized (n len : Nat) : (Engine.afterReset k n len).initialized = false := rfl
@[simp] theorem afterReset_rspData (n len : Nat) : (Engine.afterReset k n len).rspData = 0 := rfl
@[simp] theorem afterReset_rspStatus (n len : Nat) : (Engine.afterReset k n len).rspStatus = 0 := rfl
@[simp] theorem afterReset_kmem (n len : Nat) : (Engine.afterReset k n len).kmem = resetMemory k n len := rfl
@[simp] theorem afterReset_cmdReady (n len : Nat) : (Engine.afterReset k n len).cmdReady = true := rfl
@[simp] theorem afterReset_rspValid (n len : Nat) : (Engine.afterReset k n len).rspValid = false := rfl
@[simp] theorem afterReset_resets (n len : Nat) : (Engine.afterReset k n len).resets = n := rfl

/-! ### The machine -/

@[simp] theorem engine_setEngine_same (s : State) (k : Width) (e : Engine k) : (s.setEngine k e).engine k = e := by
  cases k <;> rfl

theorem engine_setEngine_ne (s : State) {j k : Width} (e : Engine k) (h : j ≠ k) :
    (s.setEngine k e).engine j = s.engine j := by
  cases j <;> cases k <;> first | rfl | exact absurd rfl h

@[simp] theorem setEngine_real32Form (s : State) (k : Width) (e : Engine k) :
    (s.setEngine k e).real32Form = s.real32Form := by cases k <;> rfl

@[simp] theorem setEngine_port (s : State) (k : Width) (e : Engine k) : (s.setEngine k e).port = s.port := by
  cases k <;> rfl

@[simp] theorem setEngine_inputs (s : State) (k : Width) (e : Engine k) :
    (s.setEngine k e).inputs = s.inputs := by cases k <;> rfl

@[simp] theorem setEngine_setEngine (s : State) (k : Width) (e e' : Engine k) :
    (s.setEngine k e).setEngine k e' = s.setEngine k e' := by cases k <;> rfl

@[simp] theorem setEngine_engine (s : State) (k : Width) : s.setEngine k (s.engine k) = s := by cases k <;> rfl

@[simp] theorem engine_w32 (s : State) : s.engine .w32 = s.engine32 := rfl

@[simp] theorem engine_w64 (s : State) : s.engine .w64 = s.engine64 := rfl

/-- Two machines are equal when their instances, parameter, port and inputs are. -/
theorem State.ext_engine {s t : State} (he : ∀ k, s.engine k = t.engine k) (hf : s.real32Form = t.real32Form)
    (hp : s.port = t.port) (hi : s.inputs = t.inputs) : s = t := by
  have h32 := he .w32
  have h64 := he .w64
  cases s; cases t; simp_all

@[simp] theorem engine_with_port (s : State) (p k : Width) : ({ s with port := p } : State).engine k = s.engine k := by
  cases k <;> rfl

@[simp] theorem engine_with_inputs (s : State) (l : List HostInput) (k : Width) :
    ({ s with inputs := l } : State).engine k = s.engine k := by cases k <;> rfl

/-! ### `onPort`: what one command may do to the machine -/

/-- The instance on the port in use becomes `f` of what it was (R58). -/
@[simp] theorem onPort_engine_port (s : State) (f : (k : Width) → Engine k → Engine k) :
    (s.onPort f).engine s.port = f s.port (s.engine s.port) := engine_setEngine_same s s.port _

/-- The other instance is untouched (R31). -/
theorem onPort_engine_ne (s : State) (f : (k : Width) → Engine k → Engine k) {j : Width} (h : j ≠ s.port) :
    (s.onPort f).engine j = s.engine j := engine_setEngine_ne s _ h

@[simp] theorem onPort_real32Form (s : State) (f : (k : Width) → Engine k → Engine k) :
    (s.onPort f).real32Form = s.real32Form := setEngine_real32Form ..

@[simp] theorem onPort_port (s : State) (f : (k : Width) → Engine k → Engine k) : (s.onPort f).port = s.port :=
  setEngine_port ..

@[simp] theorem onPort_inputs (s : State) (f : (k : Width) → Engine k → Engine k) :
    (s.onPort f).inputs = s.inputs := setEngine_inputs ..

/-! ### `beginStep`, `popInput` and `acceptCommand` -/

@[simp] theorem beginStep_engine (s : State) (k : Width) :
    (beginStep s).engine k = { s.engine k with rspValid := false } := by cases k <;> rfl

@[simp] theorem beginStep_real32Form (s : State) : (beginStep s).real32Form = s.real32Form := rfl

@[simp] theorem beginStep_port (s : State) : (beginStep s).port = s.port := rfl

@[simp] theorem beginStep_inputs (s : State) : (beginStep s).inputs = s.inputs := rfl

@[simp] theorem popInput_engine (rest : List HostInput) (s : State) (k : Width) :
    (popInput rest s).engine k = { s.engine k with rspValid := false } := by cases k <;> rfl

@[simp] theorem popInput_real32Form (rest : List HostInput) (s : State) :
    (popInput rest s).real32Form = s.real32Form := rfl

@[simp] theorem popInput_port (rest : List HostInput) (s : State) : (popInput rest s).port = s.port := rfl

@[simp] theorem popInput_inputs (rest : List HostInput) (s : State) : (popInput rest s).inputs = rest := rfl

@[simp] theorem acceptCommand_engine_same (s : State) (k : Width) :
    (acceptCommand k s).engine k = { s.engine k with cmdReady := false } := by cases k <;> rfl

theorem acceptCommand_engine_ne (s : State) {j k : Width} (h : j ≠ k) :
    (acceptCommand k s).engine j = s.engine j := by
  cases j <;> cases k <;> first | rfl | exact absurd rfl h

@[simp] theorem acceptCommand_port (s : State) (k : Width) : (acceptCommand k s).port = k := rfl

@[simp] theorem acceptCommand_real32Form (s : State) (k : Width) :
    (acceptCommand k s).real32Form = s.real32Form := setEngine_real32Form ..

@[simp] theorem acceptCommand_inputs (s : State) (k : Width) : (acceptCommand k s).inputs = s.inputs :=
  setEngine_inputs ..

end Sys2Proof.Machine
end

