-- ==== Sys2Proof/Laws/Decode.lean ====
section
/-! SUPPORT. The fields of the command word and the cases of the decoder (spec R74, R79). -/

namespace Sys2Proof

@[simp] theorem cmdRsvd_cmdWord (a b : BitVec 4) : cmdRsvd (cmdWord a b) = a := by
  revert a b; decide +kernel

@[simp] theorem cmdOp_cmdWord (a b : BitVec 4) : cmdOp (cmdWord a b) = b := by
  revert a b; decide +kernel

/-- The two fields make up the command word (R74). -/
theorem cmdWord_fields (c : BitVec 8) : cmdWord (cmdRsvd c) (cmdOp c) = c := by
  revert c; decide +kernel

/-- A W-bit word survives the wider `arg` of a command. -/
@[simp] theorem setWidth_argument (k : Width) (arg : Word k) : (arg.setWidth 64).setWidth k.bits = arg := by
  have hb : k.bits ≤ 64 := by cases k <;> decide
  have h := Nat.pow_le_pow_right (show 0 < 2 by decide) hb
  apply BitVec.eq_of_toNat_eq
  rw [BitVec.toNat_setWidth, BitVec.toNat_setWidth, Nat.mod_eq_of_lt (lt_of_lt_of_le arg.isLt h),
    Nat.mod_eq_of_lt arg.isLt]

/-- A well-formed argument survives the W-bit ARG word. -/
theorem setWidth_of_fits (k : Width) (arg : BitVec 64) (h : argFits k arg = true) :
    (arg.setWidth k.bits).setWidth 64 = arg := by
  have h' : arg.toNat < 2 ^ k.bits := by simpa [argFits] using h
  apply BitVec.eq_of_toNat_eq
  rw [BitVec.toNat_setWidth, BitVec.toNat_setWidth, Nat.mod_eq_of_lt h', Nat.mod_eq_of_lt arg.isLt]

/-- What the decoder reads is one of the seven commands, each from its own word (R76). -/
theorem decode_cases {k : Width} {cmd : BitVec 8} {arg : Word k} {i : Instr} (h : decode k cmd arg = .ok i) :
    (cmd = 1#8 ∧ i = .seedScalar (arg.setWidth 64)) ∨ (cmd = 2#8 ∧ i = .seedArray (arg.setWidth 64)) ∨
    (cmd = 3#8 ∧ i = .nextRaw) ∨ (cmd = 4#8 ∧ i = .nextSigned) ∨ (cmd = 5#8 ∧ i = .nextRealClosed01) ∨
    (cmd = 6#8 ∧ i = .nextRealHalfopen01) ∨ (cmd = 7#8 ∧ i = .nextRealOpen01) := by
  have hop : ∀ n : Nat, cmdRsvd cmd = 0#4 → (cmdOp cmd).toNat = n → cmd = cmdWord 0#4 (BitVec.ofNat 4 n) := by
    intro n h0 hn
    rw [← hn, BitVec.ofNat_toNat, BitVec.setWidth_eq, ← h0, cmdWord_fields]
  unfold decode at h
  split at h
  · next h0 =>
    split at h
    · next ho => cases h; exact .inl ⟨(hop 1 h0 ho).trans (by decide), rfl⟩
    · next ho => cases h; exact .inr (.inl ⟨(hop 2 h0 ho).trans (by decide), rfl⟩)
    · next ho => cases h; exact .inr (.inr (.inl ⟨(hop 3 h0 ho).trans (by decide), rfl⟩))
    · next ho => cases h; exact .inr (.inr (.inr (.inl ⟨(hop 4 h0 ho).trans (by decide), rfl⟩)))
    · next ho => cases h; exact .inr (.inr (.inr (.inr (.inl ⟨(hop 5 h0 ho).trans (by decide), rfl⟩))))
    · next ho => cases h; exact .inr (.inr (.inr (.inr (.inr (.inl ⟨(hop 6 h0 ho).trans (by decide), rfl⟩)))))
    · next ho => cases h; exact .inr (.inr (.inr (.inr (.inr (.inr ⟨(hop 7 h0 ho).trans (by decide), rfl⟩)))))
    · cases h
  · cases h

end Sys2Proof
end

