-- ==== Sys2Proof/Laws/Float.lean ====
section
/-! SUPPORT. The binary64 patterns and the rounding of spec R11: what a pattern is worth, and that rounding an exact
value gives its pattern. -/

namespace Sys2Proof.Machine

theorem f64Exp_eq (b : BitVec 64) : f64Exp b = b.toNat / 2 ^ 52 % 2 ^ 11 := by
  simp [f64Exp, BitVec.extractLsb'_toNat, Nat.shiftRight_eq_div_pow]

theorem f64Frac_eq (b : BitVec 64) : f64Frac b = b.toNat % 2 ^ 52 := by
  simp [f64Frac, BitVec.extractLsb'_toNat]

/-- The pattern with significand `q` and shift `sh`, `q` of 53 bits unless `sh` is 0, is worth `q * 2^sh` units. -/
theorem f64Units_pattern {sh q : Nat} (hq : q < 2 ^ 53) (hn : sh = 0 ∨ 2 ^ 52 ≤ q)
    (hf : sh * 2 ^ 52 + q < 0x7FF0000000000000) :
    f64Units (BitVec.ofNat 64 (sh * 2 ^ 52 + q)) = q * 2 ^ sh := by
  have hp : (BitVec.ofNat 64 (sh * 2 ^ 52 + q)).toNat = sh * 2 ^ 52 + q := by
    rw [BitVec.toNat_ofNat]; exact Nat.mod_eq_of_lt (by omega)
  simp only [f64Units, f64Exp_eq, f64Frac_eq, hp]
  by_cases hs : q < 2 ^ 52
  · have h0 : sh = 0 := by omega
    subst h0
    have : (0 * 2 ^ 52 + q) / 2 ^ 52 % 2 ^ 11 = 0 := by omega
    rw [if_pos this]; omega
  · have he : (sh * 2 ^ 52 + q) / 2 ^ 52 % 2 ^ 11 = sh + 1 := by omega
    have hr : 2 ^ 52 + (sh * 2 ^ 52 + q) % 2 ^ 52 = q := by omega
    rw [he, if_neg (by omega), hr, Nat.add_sub_cancel]

/-- Every finite non-negative pattern has a significand and a shift. -/
theorem f64_pattern_exists (b : BitVec 64) (hb : b.toNat < 0x7FF0000000000000) :
    ∃ sh q, q < 2 ^ 53 ∧ (sh = 0 ∨ 2 ^ 52 ≤ q) ∧ b.toNat = sh * 2 ^ 52 + q := by
  by_cases h : b.toNat < 2 ^ 52
  · exact ⟨0, b.toNat, by omega, .inl rfl, by omega⟩
  · exact ⟨b.toNat / 2 ^ 52 - 1, 2 ^ 52 + b.toNat % 2 ^ 52, by omega, by omega, by omega⟩

/-- The shift of a value of 53 significant bits at shift `sh` is `sh`. -/
theorem f64Shift_pattern {sh q : Nat} (hq : q < 2 ^ 53) (hn : sh = 0 ∨ 2 ^ 52 ≤ q) : f64Shift (q * 2 ^ sh) = sh := by
  unfold f64Shift
  by_cases hs : q < 2 ^ 52
  · have h0 : sh = 0 := by omega
    subst h0
    by_cases hz : q = 0
    · simp [hz]
    · have := (Nat.log2_lt hz).2 (show q < 2 ^ 53 by omega)
      simp; omega
  · have hq0 : q ≠ 0 := by omega
    have hl : (q * 2 ^ sh).log2 = 52 + sh := by
      have hne : q * 2 ^ sh ≠ 0 := Nat.mul_ne_zero hq0 (by positivity)
      refine (Nat.log2_eq_iff hne).2 ⟨?_, ?_⟩
      · rw [pow_add]; exact Nat.mul_le_mul_right _ (by omega)
      · rw [show 52 + sh + 1 = 53 + sh by omega, pow_add]
        exact Nat.mul_lt_mul_of_pos_right hq (by positivity)
    rw [hl]; omega

/-- Rounding a rational that is exactly a finite binary64 value gives that value (R11). -/
theorem rne_exact {num den : Nat} (hd : 0 < den) (c : BitVec 64) (hc : c.toNat < 0x7FF0000000000000)
    (h : num * f64Scale = den * f64Units c) : rne num den = c := by
  obtain ⟨sh, q, hq, hn, hcp⟩ := f64_pattern_exists c hc
  have hcv : c = BitVec.ofNat 64 (sh * 2 ^ 52 + q) := by
    apply BitVec.eq_of_toNat_eq
    rw [BitVec.toNat_ofNat, ← hcp]; exact (Nat.mod_eq_of_lt c.isLt).symm
  have hu : f64Units c = q * 2 ^ sh := by rw [hcv]; exact f64Units_pattern hq hn (hcp ▸ hc)
  have hsh : f64Shift (num * f64Scale / den) = sh := by
    rw [h, Nat.mul_div_cancel_left _ hd, hu]; exact f64Shift_pattern hq hn
  have hqd : num * f64Scale = (den * 2 ^ sh) * q := by rw [h, hu]; ring
  have hpos : 0 < den * 2 ^ sh := Nat.mul_pos hd (by positivity)
  have hr : roundEven q 0 (den * 2 ^ sh) = q := if_neg (by omega)
  simp only [rne, hsh]
  rw [hqd, Nat.mul_div_cancel_left _ hpos, Nat.mul_mod_right, hr, Nat.min_eq_left (by omega), ← hcv]

/-- The value of an exact rounding (R11). -/
theorem f64Units_rne_exact {num den : Nat} (hd : 0 < den) {sh q : Nat} (hq : q < 2 ^ 53) (hn : sh = 0 ∨ 2 ^ 52 ≤ q)
    (hf : sh * 2 ^ 52 + q < 0x7FF0000000000000) (h : num * f64Scale = den * (q * 2 ^ sh)) :
    f64Units (rne num den) = q * 2 ^ sh := by
  have hu := f64Units_pattern hq hn hf
  have ht : (BitVec.ofNat 64 (sh * 2 ^ 52 + q)).toNat = sh * 2 ^ 52 + q := by
    rw [BitVec.toNat_ofNat]; exact Nat.mod_eq_of_lt (by omega)
  rw [rne_exact hd (BitVec.ofNat 64 (sh * 2 ^ 52 + q)) (by rw [ht]; exact hf) (by rw [h, hu]), hu]

/-- A positive integer below `2^53` has a significand of exactly 53 bits: itself shifted up. -/
theorem significand_exists {a : Nat} (h0 : a ≠ 0) (ha : a < 2 ^ 53) :
    ∃ d, d ≤ 52 ∧ 2 ^ 52 ≤ a * 2 ^ d ∧ a * 2 ^ d < 2 ^ 53 := by
  have hl := Nat.log2_self_le h0
  have hu := Nat.lt_log2_self (n := a)
  have hlog : a.log2 < 53 := (Nat.log2_lt h0).2 ha
  refine ⟨52 - a.log2, by omega, ?_, ?_⟩
  · calc 2 ^ 52 = 2 ^ a.log2 * 2 ^ (52 - a.log2) := by rw [← pow_add]; congr 1; omega
      _ ≤ _ := Nat.mul_le_mul_right _ hl
  · calc a * 2 ^ (52 - a.log2) < 2 ^ (a.log2 + 1) * 2 ^ (52 - a.log2) :=
          Nat.mul_lt_mul_of_pos_right hu (by positivity)
      _ = 2 ^ 53 := by rw [← pow_add]; congr 1; omega

/-- The unit is a power of two; its exponent is kept behind a name, so that no proof computes the power. -/
theorem f64Scale_pow : ∃ S, S = 1074 ∧ f64Scale = 2 ^ S := ⟨1074, rfl, rfl⟩

theorem f64Scale_pos : 0 < f64Scale := by
  obtain ⟨S, _, h⟩ := f64Scale_pow
  rw [h]; positivity

theorem rne_zero {den : Nat} (hd : 0 < den) : rne 0 den = 0 :=
  rne_exact hd 0 (by decide) (by simp [f64Units, f64Exp, f64Frac])

/-- Below `2^53`, the integer `a` scaled by `2^-n` is a binary64 value, and rounding it is exact (R156). -/
theorem f64Units_rne_scaled {a n : Nat} (hn : n ≤ 60) (ha : a < 2 ^ 53) :
    f64Units (rne a (2 ^ n)) * 2 ^ n = a * f64Scale := by
  by_cases h : a = 0
  · subst h; rw [rne_zero (by positivity)]; simp [f64Units, f64Exp, f64Frac]
  · obtain ⟨S, hS, hs⟩ := f64Scale_pow
    obtain ⟨d, hd, h1, h2⟩ := significand_exists h ha
    have hb : (S - d - n) * 2 ^ 52 + a * 2 ^ d < 0x7FF0000000000000 := by clear hs; omega
    have he : S - d - n + n + d = S := by clear hs; omega
    have hm : 2 ^ (S - d - n) * 2 ^ n * 2 ^ d = 2 ^ S := by rw [← pow_add, ← pow_add, he]
    have key : f64Units (rne a (2 ^ n)) = a * 2 ^ d * 2 ^ (S - d - n) := by
      refine f64Units_rne_exact (by positivity) h2 (.inr h1) hb ?_
      rw [hs, ← hm]; ring
    rw [key, hs, ← hm]; ring

/-- `toF64` is exact below `2^53` (R11). -/
theorem f64Units_toF64 {n : Nat} (hn : n < 2 ^ 53) : f64Units (toF64 n) = n * f64Scale := by
  have h := f64Units_rne_scaled (n := 0) (by omega) hn
  simpa [toF64] using h

/-- `2^-n` is exact (R156). -/
theorem f64Units_pow2Neg {n : Nat} (hn : n ≤ 60) : f64Units (f64Pow2Neg n) * 2 ^ n = f64Scale := by
  have h := f64Units_rne_scaled hn (show 1 < 2 ^ 53 by norm_num)
  simpa [f64Pow2Neg] using h

end Sys2Proof.Machine
end

