-- ==== Sys2Proof/Laws/Memory.lean ====
section
/-! SUPPORT. Read after write for the two storage spaces (spec R50), and that every operation on `KMEM` keeps its
form. -/

namespace Sys2Proof.Machine

variable {k : Width}

/-! ### The state vector -/

/-- A read of the element just written gives the value written. -/
theorem readWord_writeWord_same (ws : StateVector k) {i j : Nat} (v : Word k) (h : j % k.N = i % k.N) :
    readWord (writeWord ws i v) j = v := by
  simp [readWord, writeWord, h]

/-- A write leaves every other element alone. -/
theorem readWord_writeWord_ne (ws : StateVector k) {i j : Nat} (v : Word k) (h : j % k.N ≠ i % k.N) :
    readWord (writeWord ws i v) j = readWord ws j := by
  simp only [readWord, writeWord]
  exact Vector.getElem_set_ne _ _ (Ne.symm h)

/-- What a read gives after a write, indices below `N`. -/
theorem readWord_writeWord (ws : StateVector k) {i j : Nat} (v : Word k) (hi : i < k.N) (hj : j < k.N) :
    readWord (writeWord ws i v) j = if j = i then v else readWord ws j := by
  split
  · next h => subst h; exact readWord_writeWord_same ws v rfl
  · next h =>
    refine readWord_writeWord_ne ws v ?_
    rwa [Nat.mod_eq_of_lt hi, Nat.mod_eq_of_lt hj]

/-- Indices are taken modulo `N`. -/
theorem readWord_mod (ws : StateVector k) (i : Nat) : readWord ws (i % k.N) = readWord ws i := by
  simp [readWord]

theorem readWord_add_N (ws : StateVector k) (i : Nat) : readWord ws (i + k.N) = readWord ws i := by
  rw [← readWord_mod, Nat.add_mod_right, readWord_mod]

/-- Below `N` a read is the vector's element. -/
theorem readWord_of_lt (ws : StateVector k) {i : Nat} (h : i < k.N) : readWord ws i = ws[i] := by
  simp [readWord, Nat.mod_eq_of_lt h]

/-- Two state vectors are equal when all their `N` elements are. -/
theorem words_ext {u v : StateVector k} (h : ∀ i, i < k.N → readWord u i = readWord v i) : u = v := by
  apply Vector.ext
  intro i hi
  rw [← readWord_of_lt u hi, ← readWord_of_lt v hi]
  exact h i hi

/-! ### The key memory -/

/-- Inside `KMEM`, `memRead` gives the element (R52). -/
theorem memRead_of_lt (m : Memory k) {j : Nat} (h : j < keyLenMax m) : memRead m j = m[j]'h := by
  simp only [memRead, List.getD_eq_getElem?_getD, List.getElem?_eq_getElem h, Option.getD_some]

/-- A key written inside `KMEM` is read back. -/
theorem memRead_memWrite_same (m : Memory k) {j : Nat} (v : Word k) (h : j < keyLenMax m) :
    memRead (memWrite m j v) j = v := by
  rw [memRead_of_lt _ (by simpa [keyLenMax, memWrite] using h)]
  simp [memWrite]

/-- A key write leaves every other element alone. -/
theorem memRead_memWrite_ne (m : Memory k) {i j : Nat} (v : Word k) (h : j ≠ i) :
    memRead (memWrite m i v) j = memRead m j := by
  simp only [memRead, memWrite, List.getD_eq_getElem?_getD, List.getElem?_set_ne (Ne.symm h)]

/-- A key write keeps `KEY_LEN_MAX` (R8). -/
@[simp] theorem keyLenMax_memWrite (m : Memory k) (i : Nat) (v : Word k) :
    keyLenMax (memWrite m i v) = keyLenMax m := by simp [keyLenMax, memWrite]

/-- A key write keeps the form of `KMEM`. -/
@[simp] theorem memWrite_wf (m : Memory k) (i : Nat) (v : Word k) :
    Memory.wf (memWrite m i v) = Memory.wf m := by simp [Memory.wf, memWrite]

@[simp] theorem keyLenMax_resetMemory (n len : Nat) : keyLenMax (resetMemory k n len) = len := by
  simp [keyLenMax, resetMemory]

/-- A reset keeps the form of `KMEM`, since it keeps `KEY_LEN_MAX`. -/
@[simp] theorem resetMemory_wf (n : Nat) (m : Memory k) :
    Memory.wf (resetMemory k n (keyLenMax m)) = Memory.wf m := by simp [Memory.wf, resetMemory, keyLenMax]

/-- The key memories of `State.reset` have their form: `KEY_LEN_MAX` is at least 1. -/
theorem reset_memory_wf (k : Width) : Memory.wf (State.reset.engine k).kmem = true := by
  cases k <;> simp [State.reset, Memory.wf, resetMemory, Config.keyLenMax, State.engine]

end Sys2Proof.Machine
end

