-- ==== Sys2Proof/Laws/Seeding.lean ====
section
/-! SUPPORT. What each shared operation of seeding does (spec R100, R104 to R108). -/

namespace Sys2Proof.Machine

variable {k : Width}

theorem N_ge_two (k : Width) : 2 ≤ k.N := by cases k <;> decide

theorem N_lt_cursor (k : Width) : k.N < 2 ^ k.cursorBits := by cases k <;> decide

@[simp] theorem N_mod_cursor (k : Width) : k.N % 2 ^ k.cursorBits = k.N := by cases k <;> rfl

@[simp] theorem cursor_N (k : Width) : (BitVec.ofNat k.cursorBits k.N).toNat = k.N := by
  cases k <;> rfl

/-! ### Scalar fill -/

/-- The prefix of a scalar fill that steps 1 .. n have written, from a vector whose element 0 is the seed. -/
theorem scalarSteps_prefix (ws : StateVector k) (n : Nat) (hn : n < k.N) :
    let r := (List.range' 1 n).foldl scalarStep ws
    readWord r 0 = readWord ws 0 ∧
    (∀ i, 1 ≤ i → i ≤ n → readWord r i = k.fSeed * seedMix (readWord r (i - 1)) + Word.ofNat k i) := by
  induction n with
  | zero => exact ⟨rfl, fun i h1 h2 => by omega⟩
  | succ n ih =>
    obtain ⟨h0, hs⟩ := ih (by omega)
    rw [List.range'_1_concat, List.foldl_concat, Nat.add_comm 1 n]
    simp only [scalarStep, Nat.add_sub_cancel]
    refine ⟨?_, fun i h1 h2 => ?_⟩
    · rw [readWord_writeWord _ _ hn (by omega), if_neg (by omega), h0]
    · rw [readWord_writeWord _ _ hn (by omega), readWord_writeWord _ _ hn (by omega), if_neg (by omega : i - 1 ≠ n + 1)]
      by_cases hi : i = n + 1
      · subst hi; simp
      · rw [if_neg hi]; exact hs i h1 (by omega)

/-- The words of `scalar_fill(seed)` satisfy the recurrence of R100, whatever the words before. -/
theorem scalarFillWords_spec (seed : Word k) (ws : StateVector k) :
    readWord (scalarFillWords seed ws) 0 = seed ∧
    ∀ i, 1 ≤ i → i < k.N → readWord (scalarFillWords seed ws) i
      = k.fSeed * seedMix (readWord (scalarFillWords seed ws) (i - 1)) + Word.ofNat k i := by
  have hN := N_ge_two k
  obtain ⟨h0, hs⟩ := scalarSteps_prefix (writeWord ws 0 seed) (k.N - 1) (by omega)
  exact ⟨h0.trans (readWord_writeWord_same _ _ rfl), fun i h1 h2 => hs i h1 (by omega)⟩

/-- The recurrence of R100 determines the words: `scalar_fill` does not depend on the state before it. -/
theorem scalarFillWords_congr (seed : Word k) (ws ws' : StateVector k) :
    scalarFillWords seed ws = scalarFillWords seed ws' := by
  obtain ⟨h0, hs⟩ := scalarFillWords_spec seed ws
  obtain ⟨h0', hs'⟩ := scalarFillWords_spec seed ws'
  apply words_ext
  intro i
  induction i with
  | zero => intro _; rw [h0, h0']
  | succ i ih => intro hi; rw [hs _ (by omega) hi, hs' _ (by omega) hi, Nat.add_sub_cancel, ih (by omega)]

/-! ### The passes of array seeding -/

/-- The indices after one key-mixing step: both advance, `i` wraps to 1 at `N`, `j` to 0 at `L` (R104). -/
theorem keyMixStep_indices (m : Memory k) (L : Nat) (st : FillState k) :
    (keyMixStep m L st).i = (if k.N ≤ st.i + 1 then 1 else st.i + 1) ∧
    (keyMixStep m L st).j = (if L ≤ st.j + 1 then 0 else st.j + 1) := by
  simp only [keyMixStep, wrapI, wrapJ]
  split <;> split <;> simp_all

/-- The words after one key-mixing step (R104). -/
theorem keyMixStep_words (m : Memory k) (L : Nat) (st : FillState k) :
    (keyMixStep m L st).words = if k.N ≤ st.i + 1
      then writeWord (keyMixWrite m st) 0 (readWord (keyMixWrite m st) (k.N - 1)) else keyMixWrite m st := by
  simp only [keyMixStep, wrapI, wrapJ]
  split <;> split <;> simp_all

/-- The index after one internal step (R105). -/
theorem internalStep_index (st : FillState k) :
    (internalStep st).i = if k.N ≤ st.i + 1 then 1 else st.i + 1 := by
  simp only [internalStep, wrapI]
  split <;> simp_all

/-- The words after one internal step (R105). -/
theorem internalStep_words (st : FillState k) :
    (internalStep st).words = if k.N ≤ st.i + 1
      then writeWord (internalWrite st) 0 (readWord (internalWrite st) (k.N - 1)) else internalWrite st := by
  simp only [internalStep, wrapI]
  split <;> simp_all

/-- The passes read no word but those of the baseline, so `array_fill` does not depend on the state before
it (R103). -/
theorem arrayFillWords_congr (m : Memory k) (L : Nat) (ws ws' : StateVector k) :
    arrayFillWords m L ws = arrayFillWords m L ws' := by
  simp only [arrayFillWords, keyMixPass, scalarFillWords_congr _ ws ws']

/-- `words[0]` is `MSB_FORCE` after `array_fill` (R106). -/
theorem arrayFillWords_zero (m : Memory k) (L : Nat) (ws : StateVector k) :
    readWord (arrayFillWords m L ws) 0 = k.msbForce := readWord_writeWord_same _ _ rfl

/-! ### SEED_ARRAY -/

/-- SEED_ARRAY on one instance ends in exactly one of three ways (R103, R107). -/
theorem seedArray_cases (L : Nat) (e : Engine k) :
    (L = 0 ∧ seedArray L e = raise .invalidArgument e) ∨
    (keyLenMax e.kmem < L ∧ seedArray L e = raise .keyLengthExceeded e) ∨
    (1 ≤ L ∧ L ≤ keyLenMax e.kmem ∧ seedArray L e = complete 0 (arrayFill L e)) := by
  unfold seedArray
  split
  · exact .inl ⟨‹_›, rfl⟩
  · split
    · exact .inr (.inl ⟨‹_›, rfl⟩)
    · exact .inr (.inr ⟨by omega, by omega, rfl⟩)

end Sys2Proof.Machine
end

