-- ==== Sys2Proof/Laws/Twist.lean ====
section
/-! SUPPORT. What the twist does (spec R130 to R132). -/

namespace Sys2Proof.Machine

variable {k : Width}

/-- The words after steps 0 .. n-1 of the twist: those below `n` are new, the others old, and each new one was
made from the words as its step found them (R132). -/
theorem twistSteps_prefix (ws : StateVector k) (n : Nat) (hn : n ≤ k.N) :
    let r := (List.range n).foldl twistStep ws
    (∀ i, n ≤ i → i < k.N → readWord r i = readWord ws i) ∧
    (∀ i, i < n → readWord r i =
      (if i < k.N - k.M then readWord ws (i + k.M) else readWord r (i + k.M - k.N)) ^^^
        twistMul (twistJoin (readWord ws i) (if i + 1 < k.N then readWord ws (i + 1) else readWord r 0))) := by
  have hM : k.M < k.N ∧ 0 < k.M ∧ 1 < k.N - k.M := by cases k <;> decide
  induction n with
  | zero => exact ⟨fun i _ _ => rfl, fun i h => by omega⟩
  | succ n ih =>
    obtain ⟨hold, hnew⟩ := ih (by omega)
    rw [List.range_succ, List.foldl_concat]
    simp only [twistStep]
    generalize hr : (List.range n).foldl twistStep ws = r at hold hnew ⊢
    refine ⟨fun i h1 h2 => ?_, fun i hi => ?_⟩
    · rw [readWord_writeWord _ _ (by omega) h2, if_neg (by omega)]
      exact hold i (by omega) h2
    · by_cases hin : i = n
      · subst hin
        rw [readWord_writeWord_same _ _ rfl]
        have h0 : i + 1 < k.N → readWord r (i + 1) = readWord ws (i + 1) := fun h => hold _ (by omega) h
        have hA : readWord r (i + k.M) = if i < k.N - k.M then readWord ws (i + k.M)
            else readWord (writeWord r i (readWord r (i + k.M) ^^^
              twistMul (twistJoin (readWord r i) (readWord r (i + 1))))) (i + k.M - k.N) := by
          split
          · exact hold _ (by omega) (by omega)
          · rw [readWord_writeWord _ _ (by omega) (by omega), if_neg (by omega), ← readWord_add_N r (i + k.M - k.N)]
            congr 1; omega
        have hB : readWord r (i + 1) = if i + 1 < k.N then readWord ws (i + 1)
            else readWord (writeWord r i (readWord r (i + k.M) ^^^
              twistMul (twistJoin (readWord r i) (readWord r (i + 1))))) 0 := by
          split
          · exact h0 ‹_›
          · rw [readWord_writeWord _ _ (by omega) (by omega), if_neg (by omega)]
            have : i + 1 = 0 + k.N := by omega
            rw [this, readWord_add_N]
        rw [← hA, ← hB, hold i (le_refl _) (by omega)]
      · rw [readWord_writeWord _ _ (by omega) (by omega), if_neg hin, hnew i (by omega)]
        congr 1
        · split
          · rfl
          · rw [readWord_writeWord _ _ (by omega) (by omega), if_neg (by omega)]
        · congr 2
          split
          · rfl
          · omega

/-- The words of a whole twist, each in terms of the old words and of the new ones already made (R130, R132). -/
theorem twistWords_spec (ws : StateVector k) (i : Nat) (hi : i < k.N) :
    readWord (twistWords ws) i =
      (if i < k.N - k.M then readWord ws (i + k.M) else readWord (twistWords ws) (i + k.M - k.N)) ^^^
        twistMul (twistJoin (readWord ws i)
          (if i + 1 < k.N then readWord ws (i + 1) else readWord (twistWords ws) 0)) :=
  (twistSteps_prefix ws k.N (le_refl _)).2 i hi

/-- `twist_if_exhausted()` in its three cases (R131). -/
theorem twistIfExhausted_cases (e : Engine k) :
    (e.cursor.toNat < k.N ∧ twistIfExhausted e = e) ∨
    (k.N ≤ e.cursor.toNat ∧ e.initialized = true ∧ twistIfExhausted e = twist e) ∨
    (k.N ≤ e.cursor.toNat ∧ e.initialized = false ∧ twistIfExhausted e = twist (defaultSeeding e)) := by
  unfold twistIfExhausted
  split
  · cases h : e.initialized
    · exact .inr (.inr ⟨‹_›, rfl, by simp⟩)
    · exact .inr (.inl ⟨‹_›, rfl, by simp⟩)
  · exact .inl ⟨by omega, rfl⟩

/-- After it, the batch is not exhausted (R151). -/
theorem twistIfExhausted_cursor (e : Engine k) : (twistIfExhausted e).cursor.toNat < k.N := by
  rcases twistIfExhausted_cases e with ⟨h, he⟩ | ⟨_, _, he⟩ | ⟨_, _, he⟩ <;> rw [he]
  · exact h
  · simpa using k.N_pos
  · simpa using k.N_pos

/-- It keeps the key memory, the response registers and the handshake signals (R108, R130). -/
theorem twistIfExhausted_frame (e : Engine k) :
    (twistIfExhausted e).kmem = e.kmem ∧ (twistIfExhausted e).resets = e.resets ∧
    (twistIfExhausted e).cmdReady = e.cmdReady ∧ (twistIfExhausted e).rspValid = e.rspValid ∧
    (twistIfExhausted e).rspData = e.rspData ∧ (twistIfExhausted e).rspStatus = e.rspStatus := by
  rcases twistIfExhausted_cases e with ⟨_, he⟩ | ⟨_, _, he⟩ | ⟨_, _, he⟩ <;> rw [he] <;> exact ⟨rfl, rfl, rfl, rfl, rfl, rfl⟩

end Sys2Proof.Machine
end

