-- ==== Sys2Proof/Laws/Output.lean ====
section
/-! SUPPORT. What the shared operations of the output commands do (spec R150, R151, R161). -/

namespace Sys2Proof.Machine

variable {k : Width}

/-- The cursor after an output command, as a number: it never wraps (R151). -/
theorem output_cursor (f : Word k → BitVec 64) (e : Engine k) :
    (output f e).cursor.toNat = (twistIfExhausted e).cursor.toNat + 1 := by
  have h := twistIfExhausted_cursor e
  have hb := N_lt_cursor k
  have h1 : (1 : BitVec k.cursorBits).toNat = 1 := by cases k <;> rfl
  simp only [output, complete_cursor, advance_cursor, BitVec.toNat_add, h1]
  exact Nat.mod_eq_of_lt (by omega)

/-- Everything an output command writes on its instance: the response, the words and `initialized` as the twist
trigger left them, the cursor one further (R151, R161). -/
theorem output_fields (f : Word k → BitVec 64) (e : Engine k) :
    (output f e).words = (twistIfExhausted e).words ∧
    (output f e).initialized = (twistIfExhausted e).initialized ∧
    (output f e).rspData = f (currentWord (twistIfExhausted e)) ∧ (output f e).rspStatus = 0 ∧
    (output f e).kmem = e.kmem ∧ (output f e).resets = e.resets ∧ (output f e).cmdReady = true ∧
    (output f e).rspValid = true :=
  ⟨rfl, rfl, rfl, rfl, (twistIfExhausted_frame e).1, (twistIfExhausted_frame e).2.1, rfl, rfl⟩

/-- The word an output command takes is the one just below its cursor afterwards (R151). -/
theorem output_word (f : Word k → BitVec 64) (e : Engine k) :
    currentWord (twistIfExhausted e) = temper (readWord (output f e).words ((output f e).cursor.toNat - 1)) := by
  rw [output_cursor, Nat.add_sub_cancel]
  rfl

/-- Two output commands differ in `RSP_DATA` alone (R160). -/
theorem output_same_stream (f g : Word k → BitVec 64) (e : Engine k) :
    { output f e with rspData := 0 } = { output g e with rspData := 0 } := rfl

/-- Every output command is `output` of a result function on its port (R161). -/
theorem exec_output (i : Instr) (h : i.isOutput = true) :
    ∃ f : Real32Form → (k : Width) → Word k → BitVec 64,
      ∀ s, exec i s = .next (s.onPort fun k e => output (f s.real32Form k) e) := by
  cases i with
  | seedScalar arg => simp [Instr.isOutput] at h
  | seedArray arg => simp [Instr.isOutput] at h
  | nextRaw => exact ⟨fun _ _ => resultRaw, fun _ => rfl⟩
  | nextSigned => exact ⟨fun _ _ => resultSigned, fun _ => rfl⟩
  | nextRealClosed01 => exact ⟨fun form _ => resultClosed01 form, fun _ => rfl⟩
  | nextRealHalfopen01 => exact ⟨fun form _ => resultHalfopen01 form, fun _ => rfl⟩
  | nextRealOpen01 => exact ⟨fun form _ => resultOpen01 form, fun _ => rfl⟩

/-! ### The lines of `temper` -/

theorem temper_zero (k : Width) : temper (0 : Word k) = 0 := by cases k <;> decide +kernel

end Sys2Proof.Machine
end

