-- ==== Sys2Proof/Laws/PerInstr.lean ====
section
/-! SUPPORT. Facts said of every command as syntax, one lemma per constructor. -/

namespace Sys2Proof.Laws.CommandWordInMap

/-- The command word of `i` is in the opcode map: `RSVD` is 0000 and `OP` is one of 1 to 7 (R74, R76). -/
def Statement (i : Instr) : Prop :=
  ∀ k, cmdRsvd (encode k i).1 = 0#4 ∧ 1 ≤ (cmdOp (encode k i).1).toNat ∧ (cmdOp (encode k i).1).toNat ≤ 7

theorem seedScalar (arg : BitVec 64) : Statement (.seedScalar arg) := fun _ => by simp [encode, encodeOp]

theorem seedArray (arg : BitVec 64) : Statement (.seedArray arg) := fun _ => by simp [encode, encodeOp]

theorem nextRaw : Statement .nextRaw := fun _ => by simp [encode, encodeOp]

theorem nextSigned : Statement .nextSigned := fun _ => by simp [encode, encodeOp]

theorem nextRealClosed01 : Statement .nextRealClosed01 := fun _ => by simp [encode, encodeOp]

theorem nextRealHalfopen01 : Statement .nextRealHalfopen01 := fun _ => by simp [encode, encodeOp]

theorem nextRealOpen01 : Statement .nextRealOpen01 := fun _ => by simp [encode, encodeOp]

end Sys2Proof.Laws.CommandWordInMap
end

