-- ==== Sys2Proof/Laws/Step.lean ====
section
/-! SUPPORT. What a command, a host action and a step can do, each said once (spec R70 to R72, R181, R211). -/

namespace Sys2Proof.Machine

/-- Every command is a change of the instance on the port in use, which it answers with a next state (R58, R209). -/
theorem exec_onPort (i : Instr) : ∃ f : Real32Form → (k : Width) → Engine k → Engine k,
    ∀ s, exec i s = .next (s.onPort (f s.real32Form)) := by
  cases i with
  | seedScalar arg => exact ⟨fun _ k e => seedScalar (seedOperand k arg) e, fun _ => rfl⟩
  | seedArray arg => exact ⟨fun _ k e => seedArray (keyCount k arg) e, fun _ => rfl⟩
  | nextRaw => exact ⟨fun _ _ => output resultRaw, fun _ => rfl⟩
  | nextSigned => exact ⟨fun _ _ => output resultSigned, fun _ => rfl⟩
  | nextRealClosed01 => exact ⟨fun form _ => output (resultClosed01 form), fun _ => rfl⟩
  | nextRealHalfopen01 => exact ⟨fun form _ => output (resultHalfopen01 form), fun _ => rfl⟩
  | nextRealOpen01 => exact ⟨fun form _ => output (resultOpen01 form), fun _ => rfl⟩

/-- What a performed command leaves of an instance: the response delivered, the key memory and the reset count
kept (R53, R70, R72). -/
theorem exec_response (i : Instr) (s : State) : ∃ t, exec i s = .next t ∧
    (t.engine s.port).rspValid = true ∧ (t.engine s.port).cmdReady = true ∧
    (t.engine s.port).kmem = (s.engine s.port).kmem ∧ (t.engine s.port).resets = (s.engine s.port).resets ∧
    (∀ j, j ≠ s.port → t.engine j = s.engine j) ∧ t.real32Form = s.real32Form ∧ t.port = s.port ∧
    t.inputs = s.inputs := by
  have close : ∀ f : (k : Width) → Engine k → Engine k,
      (∀ e : Engine s.port, (f s.port e).rspValid = true ∧ (f s.port e).cmdReady = true ∧
        (f s.port e).kmem = e.kmem ∧ (f s.port e).resets = e.resets) →
      ∃ t, Host.Outcome.next (s.onPort f) = (.next t : Host.Outcome State Fault Refusal) ∧
        (t.engine s.port).rspValid = true ∧ (t.engine s.port).cmdReady = true ∧
        (t.engine s.port).kmem = (s.engine s.port).kmem ∧ (t.engine s.port).resets = (s.engine s.port).resets ∧
        (∀ j, j ≠ s.port → t.engine j = s.engine j) ∧ t.real32Form = s.real32Form ∧ t.port = s.port ∧
        t.inputs = s.inputs := by
    intro f hf
    obtain ⟨h1, h2, h3, h4⟩ := hf (s.engine s.port)
    refine ⟨_, rfl, ?_, ?_, ?_, ?_, fun j hj => onPort_engine_ne s f hj, onPort_real32Form .., onPort_port ..,
      onPort_inputs ..⟩ <;> rw [onPort_engine_port] <;> assumption
  have hout : ∀ (g : Word s.port → BitVec 64) (e : Engine s.port), (output g e).rspValid = true ∧
      (output g e).cmdReady = true ∧ (output g e).kmem = e.kmem ∧ (output g e).resets = e.resets := by
    intro g e
    obtain ⟨_, _, _, _, h5, h6, h7, h8⟩ := output_fields g e
    exact ⟨h8, h7, h5, h6⟩
  cases i with
  | seedScalar arg => exact close _ fun e => ⟨rfl, rfl, rfl, rfl⟩
  | seedArray arg =>
    refine close _ fun e => ?_
    rcases seedArray_cases (keyCount s.port arg) e with ⟨_, h⟩ | ⟨_, h⟩ | ⟨_, _, h⟩ <;> rw [h] <;>
      exact ⟨rfl, rfl, rfl, rfl⟩
  | nextRaw => exact close _ (hout _)
  | nextSigned => exact close _ (hout _)
  | nextRealClosed01 => exact close _ (hout _)
  | nextRealHalfopen01 => exact close _ (hout _)
  | nextRealOpen01 => exact close _ (hout _)

/-- What one host action may end in: a next state, or the refusal of a duty the host broke (R71, R204, R205). -/
theorem performAction_cases (k : Width) (a : HostAction k) (s : State) :
    (∃ idx data, a = .writeKey idx data ∧
      (((s.engine k).cmdReady = false ∧ performAction exec k a s = .refused (.keyWriteWhileBusy k)) ∨
       ((s.engine k).cmdReady = true ∧ keyLenMax (s.engine k).kmem ≤ idx ∧
         performAction exec k a s = .refused (.keyIndexOutOfRange k idx)) ∨
       ((s.engine k).cmdReady = true ∧ idx < keyLenMax (s.engine k).kmem ∧ performAction exec k a s
         = .next (s.setEngine k { s.engine k with kmem := memWrite (s.engine k).kmem idx data })))) ∨
    (∃ cmd arg, a = .command cmd arg ∧
      (((s.engine k).cmdReady = false ∧ performAction exec k a s = .refused (.commandWhileBusy k)) ∨
       ((s.engine k).cmdReady = true ∧ (∃ r, decode k cmd arg = .error r) ∧
         performAction exec k a s = .next (illegalCommand (acceptCommand k s))) ∨
       ((s.engine k).cmdReady = true ∧ ∃ i, decode k cmd arg = .ok i ∧
         performAction exec k a s = exec i (acceptCommand k s)))) ∨
    (a = .reset ∧ performAction exec k a s = .next (hostReset k s)) := by
  cases a with
  | writeKey idx data =>
    refine .inl ⟨idx, data, rfl, ?_⟩
    simp only [performAction, hostWriteKey]
    cases hr : (s.engine k).cmdReady
    · exact .inl ⟨rfl, by simp⟩
    · by_cases hi : idx < keyLenMax (s.engine k).kmem
      · exact .inr (.inr ⟨rfl, hi, by simp [hi]⟩)
      · exact .inr (.inl ⟨rfl, by omega, by simp [hi]⟩)
  | command cmd arg =>
    refine .inr (.inl ⟨cmd, arg, rfl, ?_⟩)
    simp only [performAction, issueCommand, performDecoded]
    cases hr : (s.engine k).cmdReady
    · exact .inl ⟨rfl, by simp⟩
    · cases hd : decode k cmd arg with
      | error r => exact .inr (.inl ⟨rfl, ⟨r, rfl⟩, by simp⟩)
      | ok i => exact .inr (.inr ⟨rfl, i, rfl, by simp⟩)
  | reset => exact .inr (.inr ⟨rfl, rfl⟩)

/-- A step with no pending interaction only ends the response strobe (R72, R192). -/
theorem step_idle {s : State} (h : s.inputs = []) : step s = .next (beginStep s) := by
  simp only [step, takeStep, h]

/-- A step performs the oldest pending interaction (R211). -/
theorem step_action {s : State} {k : Width} {a : HostAction k} {rest : List HostInput}
    (h : s.inputs = .to k a :: rest) : step s = performAction exec k a (popInput rest s) := by
  simp only [step, takeStep, h]

end Sys2Proof.Machine
end

