-- ==== Sys2Proof/Laws/Run.lean ====
section
/-! SUPPORT. The run of a host program on one instance and its observation, one step at a time (spec R212). -/

namespace Sys2Proof.Machine

variable {k : Width}

@[simp] theorem final_responses (e : Engine k) : (Observation.final e).responses = [] := rfl
@[simp] theorem final_words (e : Engine k) : (Observation.final e).words = e.words := rfl
@[simp] theorem final_cursor (e : Engine k) : (Observation.final e).cursor = e.cursor := rfl
@[simp] theorem final_initialized (e : Engine k) : (Observation.final e).initialized = e.initialized := rfl

@[simp] theorem after_responses (l : List (BitVec 64 × BitVec 2)) (o : Observation k) :
    (o.after l).responses = l ++ o.responses := rfl
@[simp] theorem after_words (l : List (BitVec 64 × BitVec 2)) (o : Observation k) : (o.after l).words = o.words := rfl
@[simp] theorem after_cursor (l : List (BitVec 64 × BitVec 2)) (o : Observation k) : (o.after l).cursor = o.cursor := rfl
@[simp] theorem after_initialized (l : List (BitVec 64 × BitVec 2)) (o : Observation k) :
    (o.after l).initialized = o.initialized := rfl
@[simp] theorem after_nil (o : Observation k) : o.after [] = o := rfl

@[simp] theorem fromReset_engine (s : State) (k j : Width) (acts : List (HostAction k)) :
    (s.fromReset k acts).engine j = s.engine j := by cases j <;> rfl
@[simp] theorem fromReset_real32Form (s : State) (k : Width) (acts : List (HostAction k)) :
    (s.fromReset k acts).real32Form = s.real32Form := rfl
@[simp] theorem fromReset_inputs (s : State) (k : Width) (acts : List (HostAction k)) :
    (s.fromReset k acts).inputs = .to k .reset :: acts.map (HostInput.to k) := rfl

theorem observedResponse_of_not_valid {e : Engine k} (h : e.rspValid = false) : observedResponse e = [] := by
  simp [observedResponse, h]

theorem observedResponse_of_valid {e : Engine k} (h : e.rspValid = true) :
    observedResponse e = [(e.rspData, e.rspStatus)] := by simp [observedResponse, h]

@[simp] theorem observe_zero (k : Width) (s : State) : observe k 0 s = some (Observation.final (s.engine k)) := rfl

/-- One step of an observed run. -/
theorem observe_succ {s t : State} (k : Width) (n : Nat) (h : step s = .next t) :
    observe k (n + 1) s = (observe k n t).map (Observation.after (observedResponse (t.engine k))) := by
  simp only [observe, h]

theorem observe_refused {s : State} (k : Width) (n : Nat) {r : Refusal} (h : step s = .refused r) :
    observe k (n + 1) s = none := by
  simp only [observe, h]

theorem runEnd_le_length (k : Width) (xs : List HostInput) : runEnd k xs ≤ xs.length := by
  induction xs with
  | nil => exact Nat.le_refl _
  | cons x rest ih => simp only [runEnd, List.length_cons]; split <;> omega

/-- With no command to come the run is over. -/
theorem runEnd_eq_zero {k : Width} {xs : List HostInput} (h : ∀ x ∈ xs, commandOn k x = false) : runEnd k xs = 0 := by
  induction xs with
  | nil => rfl
  | cons x rest ih =>
    have h0 : runEnd k rest = 0 := ih fun y hy => h y (List.mem_cons_of_mem _ hy)
    simp [runEnd, h0, h x]

/-- Interactions after the last command do not move the end of the run. -/
theorem runEnd_append {k : Width} (xs : List HostInput) {tail : List HostInput}
    (h : ∀ x ∈ tail, commandOn k x = false) : runEnd k (xs ++ tail) = runEnd k xs := by
  induction xs with
  | nil => simpa [runEnd] using runEnd_eq_zero h
  | cons x rest ih => simp only [List.cons_append, runEnd, ih]

/-- The `RESET` a run begins with: the instance is in its reset state, no response is delivered. -/
theorem step_fromReset (s : State) (k : Width) (acts : List (HostAction k)) :
    step (s.fromReset k acts) = .next (hostReset k (popInput (acts.map (HostInput.to k)) (s.fromReset k acts))) := by
  rw [step_action (fromReset_inputs s k acts)]
  rfl

end Sys2Proof.Machine
end

