-- ==== Sys2Proof/Tests/Slice0.lean ====
section
/-! SUPPORT. Tests of single steps against spec/95_test_vectors.md (each names its vector), the smoke test of
WellFormed, and for every obligation with hypotheses a witness that meets them together. -/

namespace Sys2Proof.Tests

open Sys2Proof Sys2Proof.Machine Sys2Proof.Rules

/-! ### Small states -/

/-- An instance with given words, 4 keys (the key literals of 95 E1), ready for a command. -/
def engineOf (k : Width) (ws : StateVector k) (cursor : Nat) (seeded : Bool) : Engine k where
  words := ws
  cursor := BitVec.ofNat k.cursorBits cursor
  initialized := seeded
  rspData := 7
  rspStatus := 0
  kmem := [0x123, 0x234, 0x345, 0x456].map (BitVec.ofNat k.bits)
  cmdReady := true
  rspValid := false
  resets := 0

/-- All words 0. -/
def zeros (k : Width) : StateVector k := Vector.replicate k.N 0

/-- Two instances at the same cursor (the 64-bit one at most at 312), words 0. -/
def machine (p : Width) (cursor : Nat) (seeded : Bool) (inputs : List HostInput) : State where
  engine32 := engineOf .w32 (zeros .w32) cursor seeded
  engine64 := engineOf .w64 (zeros .w64) (min cursor 312) seeded
  real32Form := .doc
  port := p
  inputs := inputs

/-- The 32-bit instance about to take the raw value 0xD091BB5C (95, after V-M10). -/
def next32 : State :=
  { machine .w32 0 true [] with engine32 := engineOf .w32 (writeWord (zeros .w32) 0 0x9B0AFA27#32) 0 true }

/-- The 64-bit instance about to take the raw value 0xC96D191CF6F6AEA6 (V-T6, V-R7). -/
def next64 : State :=
  { machine .w64 0 true [] with
    engine64 := engineOf .w64 (writeWord (zeros .w64) 0 0x245B1C66F2BDC210#64) 0 true }

/-- What a command answers, when it goes on: data, status, cursor, initialized of the port in use. -/
def answer (o : Host.Outcome State Fault Refusal) : Option (BitVec 64 × BitVec 2 × Nat × Bool) :=
  match o with
  | .next t => some ((t.engine t.port).rspData, (t.engine t.port).rspStatus,
      (t.engine t.port).cursor.toNat, (t.engine t.port).initialized)
  | .fault _ => none
  | .refused _ => none

/-- Word `i` of the port in use after a command. -/
def wordAfter (o : Host.Outcome State Fault Refusal) (i : Nat) : Option Nat :=
  match o with
  | .next t => some (readWord (t.engine t.port).words i).toNat
  | .fault _ => none
  | .refused _ => none

/-! ### WellFormed -/

theorem test_wf_refuses_wide_seed : Instr.wf .w32 (.seedScalar 0x100000000) = false := by decide

theorem test_wf_refuses_wide_length : Instr.wf .w32 (.seedArray 0xFFFFFFFFFFFFFFFF) = false := by decide

theorem test_wf_accepts_fitting : Instr.wf .w32 (.seedScalar 0xFFFFFFFF) = true ∧
    Instr.wf .w64 (.seedArray 0xFFFFFFFFFFFFFFFF) = true ∧ Instr.wf .w32 .nextRaw = true := by decide

/-! ### Decoding: every command's word, bit by bit (R74, R76) -/

theorem test_decode_seedScalar : decode .w64 0b00000001#8 5489 = .ok (.seedScalar 5489) := by rfl

theorem test_decode_seedArray : decode .w32 0b00000010#8 0xFFFFFFFF#32 = .ok (.seedArray 0xFFFFFFFF) := by rfl

theorem test_decode_nextRaw : decode .w64 0b00000011#8 0xDEADBEEF = .ok .nextRaw := by rfl

theorem test_decode_nextSigned : decode .w64 0b00000100#8 0 = .ok .nextSigned := by rfl

theorem test_decode_nextRealClosed01 : decode .w32 0b00000101#8 0 = .ok .nextRealClosed01 := by rfl

theorem test_decode_nextRealHalfopen01 : decode .w32 0b00000110#8 0 = .ok .nextRealHalfopen01 := by rfl

theorem test_decode_nextRealOpen01 : decode .w64 0b00000111#8 0 = .ok .nextRealOpen01 := by rfl

/-- 0x00, 0x08, 0x0F (V-E3, V-E4), 0x13, 0x12 and 0xFF (V-E5 to V-E7). -/
theorem test_decode_rejects : decode .w32 0x00#8 0 = .error (.undefinedOp 0) ∧
    decode .w32 0x08#8 0 = .error (.undefinedOp 8) ∧ decode .w64 0x0F#8 9 = .error (.undefinedOp 15) ∧
    decode .w32 0x13#8 0 = .error (.reservedBits 1) ∧ decode .w32 0x12#8 0 = .error (.reservedBits 1) ∧
    decode .w64 0xFF#8 0 = .error (.reservedBits 15) := ⟨rfl, rfl, rfl, rfl, rfl, rfl⟩

theorem test_decodeTableWord : decodeTableWord 8 0x03 = some .nextRaw ∧
    decodeTableWord 40 0x157101 = some (.seedScalar 0x1571) ∧ decodeTableWord 8 0x13 = none :=
  ⟨rfl, rfl, rfl⟩

/-! ### Seeding -/

/-- V-S1. -/
theorem test_seedScalar_w32 : (List.range 4).map (wordAfter (exec (.seedScalar 5489) (machine .w32 0 true [])))
    = [some 5489, some 1301868182, some 2938499221, some 2950281878] := by decide +kernel

/-- V-S6. -/
theorem test_seedScalar_w64 : (List.range 3).map
    (wordAfter (exec (.seedScalar 0xFFFFFFFFFFFFFFFF) (machine .w64 0 true [])))
    = [some 0xFFFFFFFFFFFFFFFF, some 0x9EB82F4ACDAA034D, some 0x677779FFDF81C5E5] := by decide +kernel

/-- V-E1 and V-E2. -/
theorem test_seedArray_rejects :
    answer (exec (.seedArray 0) (machine .w32 3 true [])) = some (0, 2, 3, true) ∧
    answer (exec (.seedArray 5) (machine .w32 3 true [])) = some (0, 3, 3, true) := by decide +kernel

/-- V-A1 and V-A2: `words[0]`, the response and the cursor. -/
theorem test_seedArray_accepts :
    answer (exec (.seedArray 4) (machine .w32 3 false [])) = some (0, 0, 624, true) ∧
    wordAfter (exec (.seedArray 4) (machine .w64 3 false [])) 0 = some 0x8000000000000000 := by decide +kernel

/-- The order of one key-mixing step (R104), at the last index: the write, the copy into `words[0]`, both wraps. -/
theorem test_keyMixStep_wraps : let st := keyMixStep (k := .w32) [5#32] 1 ⟨zeros .w32, 623, 0⟩
    (st.i, st.j, readWord st.words 0, readWord st.words 623) = (1, 0, 5#32, 5#32) := by decide +kernel

/-! ### The twist -/

/-- V-T1. -/
theorem test_twistStep_w32 : readWord (twistStep (k := .w32) (writeWord (writeWord (writeWord (zeros .w32)
    0 0x1571) 1 0x4D98EE96) 397 0xBDC68D6C) 0) 0 = 0x9B0AFA27#32 := by decide +kernel

/-- V-T4. -/
theorem test_twistStep_w64 : readWord (twistStep (k := .w64) (writeWord (writeWord (writeWord (zeros .w64)
    2 0x9165B5762D1A61AE) 3 0xD139B6BBED337F3F) 158 0x16CD2293A14B5D4E) 2) 2 = 0xEB7D97723EB4FB38#64 := by
  decide +kernel

/-! ### Output -/

/-- V-R4 and V-R7, first outputs. -/
theorem test_nextRaw : answer (exec .nextRaw next32) = some (0xD091BB5C, 0, 1, true) ∧
    answer (exec .nextRaw next64) = some (0xC96D191CF6F6AEA6, 0, 1, true) := by decide +kernel

/-- V-R10 and V-R9. -/
theorem test_nextSigned : answer (exec .nextSigned next32) = some (0x6848DDAE, 0, 1, true) ∧
    answer (exec .nextSigned next64) = some (0x64B68C8E7B7B5753, 0, 1, true) := by decide +kernel

/-- V-F1 to V-F3, and V-F17. -/
theorem test_nextRealClosed01 : resultClosed01 (k := .w32) .doc 0x22AE9EF6 = 0x3FC1574C8ABA6456 ∧
    resultClosed01 (k := .w32) .mt19937ar 0x22AE9EF6 = 0x3FC1574F7B11574F ∧
    resultClosed01 (k := .w64) .doc 0x401F7AC78BC80F1C = 0x3FD007DEB1E2F203 ∧
    resultClosed01 (k := .w64) .doc 0xFFFFFFFFFFFFF000 = 0x3FF0000000000000 := by decide +kernel

/-- V-F4 and V-F14. -/
theorem test_nextRealHalfopen01 : resultHalfopen01 (k := .w32) .doc 0xE7E1FAEE = 0x3FECFC3F00000000 ∧
    resultHalfopen01 (k := .w32) .mt19937ar 0xE7E1FAEE = 0x3FECFC3F5DC00000 ∧
    resultHalfopen01 (k := .w64) .doc 0xB5EE8CB6ABE457F8 = 0x3FE6BDD196D57C8A ∧
    resultHalfopen01 (k := .w64) .doc 0xFFFFFFFFFFFFFFFF = 0x3FEFFFFFFFFFFFFF := by decide +kernel

/-- V-F5, V-F6 and V-F13. -/
theorem test_nextRealOpen01 : resultOpen01 (k := .w32) .doc 0xD5C31F79 = 0x3FEAB86300000000 ∧
    resultOpen01 (k := .w32) .mt19937ar 0xD5C31F79 = 0x3FEAB863EF300000 ∧
    resultOpen01 (k := .w64) .doc 0xF258D22D4DB91392 = 0x3FEE4B1A45A9B723 ∧
    resultOpen01 (k := .w64) .doc 1 = 0x3CA0000000000000 := by decide +kernel

/-- V-M4 and V-M9. -/
theorem test_temper : temper (k := .w32) 0xFFFFFFFF = 0x6FE01BF8 ∧
    temper (k := .w64) 0xFFFFFFFFFFFFFFFF = 0x7BFEEEEFEFA1D577 := by decide

/-! ### A step -/

/-- The table's word of NEXT_SIGNED runs as the first command after reset: the lazy default seeding, the twist, the
output (R131, R208). -/
theorem test_step_first_after_reset : ∃ t, step (State.reset.withFetchWord 8 0x04) = .next t ∧
    t.engine32.cursor = 1 ∧ t.engine32.initialized = true ∧ t.engine32.rspValid = true := ⟨_, rfl, rfl, rfl, rfl⟩

/-- V-E5: 0x13 is not NEXT_RAW. -/
theorem test_step_illegal : answer (step (machine .w32 3 true [.to .w32 (.command 0x13#8 0)])) = some (0, 1, 3, true) := by
  decide +kernel

/-! ### The notation -/

/-- R80: decimal and hexadecimal numbers, mnemonics; R82: SEED_KEYS. -/
theorem test_assemble : numberValue ['0', 'x', '1', '5', '7', '1'] = some 5489 ∧
    numberValue ['5', '4', '8', '9'] = some 5489 ∧
    assemble .w32 "SEED_SCALAR" (some 5489) = some (.seedScalar 5489) ∧
    assemble .w32 "SEED_ARRAY" (some 0x100000000) = none ∧
    assemble .w64 "NEXT_REAL_OPEN01" none = some .nextRealOpen01 ∧ engineName "W64" = some .w64 := by decide

theorem test_seedKeys : seedKeys .w32 4 [0x123, 0x234] = some [.writeKey 0 0x123, .writeKey 1 0x234,
      .command 0x02#8 2] ∧
    seedKeys .w32 1 [0x123, 0x234] = none ∧ seedKeys .w32 4 [] = none := by decide

theorem test_expand_repeat : expand .w64 4 (.seq .reset (.repeated 2 (.command .nextRaw)))
    = some [.reset, .command 0x03#8 0, .command 0x03#8 0] := by decide

/-! ### Witnesses: for every obligation with hypotheses, states and operands that meet them together -/

/-- ScalarSeedCornerValues: the 32-bit clause. -/
theorem witness_ScalarSeedCornerValues : (machine .w32 0 true []).port = .w32 := rfl

/-- SeedArrayRejectsBadLength: the least `L` past `KEY_LEN_MAX` = 4, and the greatest. -/
theorem witness_SeedArrayRejectsBadLength :
    keyLenMax ((machine .w32 0 true []).engine .w32).kmem < (5#32).toNat ∧
    keyLenMax ((machine .w64 0 true []).engine .w64).kmem < (BitVec.allOnes 64).toNat := by decide

/-- SeedArrayRunsBothPasses, SeedingNeverLeavesZeroVector: both ends of the range of `L`. -/
theorem witness_SeedArrayRunsBothPasses : (1 ≤ (1#32).toNat ∧
      (1#32).toNat ≤ keyLenMax ((machine .w32 0 true []).engine .w32).kmem) ∧
    (1 ≤ (4#64).toNat ∧ (4#64).toNat ≤ keyLenMax ((machine .w64 0 true []).engine .w64).kmem) := by decide

/-- A state whose 64-bit instance has 312 keys. -/
def manyKeys : State :=
  { machine .w64 0 true [] with
    engine64 := { engineOf .w64 (zeros .w64) 0 true with kmem := List.replicate 312 0 } }

/-- SeedArrayShortKeysClosedForm: `L = 1` and `L = N`. -/
theorem witness_SeedArrayShortKeysClosedForm :
    (1 ≤ (1#32).toNat ∧ (1#32).toNat ≤ Width.w32.N ∧
      (1#32).toNat ≤ keyLenMax ((machine .w32 0 true []).engine .w32).kmem) ∧
    (1 ≤ (312#64).toNat ∧ (312#64).toNat ≤ Width.w64.N ∧
      (312#64).toNat ≤ keyLenMax (manyKeys.engine .w64).kmem) := by
  refine ⟨by decide, by decide, by decide, ?_⟩
  exact (List.length_replicate (n := 312) (a := (0 : Word .w64))).ge

/-- KeyMixPassEndIndices. -/
theorem witness_KeyMixPassEndIndices : 1 ≤ 1 ∧ 1 ≤ 1247 := by decide

/-- SeedingForgetsPriorState: two states that differ in `words`, `cursor` and `initialized`, keys equal. -/
theorem witness_SeedingForgetsPriorState : (machine .w32 3 false []).port = next32.port ∧
    (machine .w32 3 false []).engine32.cursor ≠ next32.engine32.cursor ∧ 1 ≤ (4#32).toNat ∧
    (4#32).toNat ≤ keyLenMax ((machine .w32 3 false []).engine .w32).kmem ∧
    (4#32).toNat ≤ keyLenMax (next32.engine .w32).kmem ∧
    ∀ j, j < (4#32).toNat →
      memRead ((machine .w32 3 false []).engine .w32).kmem j = memRead (next32.engine .w32).kmem j :=
  ⟨rfl, by decide, by decide, by decide, by decide, fun _ _ => rfl⟩

/-- ReseededInstancesRunInLockStep: both kinds of seeding. -/
theorem witness_ReseededInstancesRunInLockStep : (machine .w32 3 false []).port = next32.port ∧
    (machine .w32 3 false []).real32Form = next32.real32Form ∧
    ((machine .w32 3 false []).engine .w32).kmem = (next32.engine .w32).kmem ∧
    (∃ arg, Instr.seedScalar 0 = .seedScalar arg) ∧
    ∃ arg : Word .w32, Instr.seedArray 4 = .seedArray (arg.setWidth 64) ∧ 1 ≤ arg.toNat ∧
      arg.toNat ≤ keyLenMax ((machine .w32 3 false []).engine .w32).kmem :=
  ⟨rfl, rfl, rfl, ⟨0, rfl⟩, ⟨4#32, rfl, by decide, by decide⟩⟩

/-- LazyDefaultEqualsSeedScalar5489: the reset state itself. -/
theorem witness_LazyDefaultEqualsSeedScalar5489 : Instr.isOutput .nextRaw = true ∧
    (State.reset.engine State.reset.port).initialized = false ∧
    State.reset.port.N ≤ (State.reset.engine State.reset.port).cursor.toNat := by decide

/-- TwistIsLinearAndFixesZero: both clauses, by the vectors of all 0. -/
theorem witness_TwistIsLinearAndFixesZero :
    (∀ i, i < Width.w32.N → readWord (zeros .w32) i = readWord (zeros .w32) i ^^^ readWord (zeros .w32) i) ∧
    ∀ i, i < Width.w32.N → readWord (zeros .w32) i = 0 := by simp [readWord, zeros]

/-- TwistIgnoresLowBitsOfFirstWord: two vectors that differ, in the lowest bit of the first word. -/
theorem witness_TwistIgnoresLowBitsOfFirstWord :
    readWord (zeros .w64) 0 ≠ readWord (writeWord (zeros .w64) 0 1) 0 ∧
    readWord (zeros .w64) 0 >>> rLow = readWord (writeWord (zeros .w64) 0 1) 0 >>> rLow ∧
    ∀ i, 1 ≤ i → i < Width.w64.N → readWord (zeros .w64) i = readWord (writeWord (zeros .w64) 0 1) i := by
  refine ⟨by decide +kernel, by decide +kernel, fun i h1 hi => ?_⟩
  have hi' : i % Width.w64.N = i := Nat.mod_eq_of_lt hi
  simp only [readWord, writeWord, zeros, hi', Nat.zero_mod]
  rw [Vector.getElem_set_ne]; omega

/-- TwistPositionsInStream: a batch just exhausted. -/
theorem witness_TwistPositionsInStream :
    ((machine .w32 624 true []).engine .w32).cursor.toNat = Width.w32.N ∧
    ∀ i, i ∈ [Instr.nextRaw, .nextSigned] → i.isOutput = true := by decide

/-- OutputCommandsExtractOneWord and the result statements: the three cases of `Extracts`, and both forms of the real
conversions. -/
theorem witness_OutputCommandsExtractOneWord :
    (∀ i, i ∈ [Instr.nextRaw, .nextSigned, .nextRealClosed01, .nextRealHalfopen01, .nextRealOpen01] →
      i.isOutput = true) ∧
    ((machine .w32 623 true []).engine .w32).cursor.toNat < Width.w32.N ∧
    (Width.w32.N ≤ ((machine .w32 624 true []).engine .w32).cursor.toNat ∧
      ((machine .w32 624 true []).engine .w32).initialized = true) ∧
    (Width.w64.N ≤ ((machine .w64 312 false []).engine .w64).cursor.toNat ∧
      ((machine .w64 312 false []).engine .w64).initialized = false) := by decide

theorem witness_ScalesAllBits : ScalesAllBits { machine .w32 0 true [] with real32Form := .mt19937ar } ∧
    ¬ ScalesAllBits (machine .w32 0 true []) ∧
    ¬ ScalesAllBits { machine .w64 0 true [] with real32Form := .mt19937ar } := by
  simp [ScalesAllBits, machine]

/-- ClosedFormIsMonotone: the two greatest `k`, and two equal ones. -/
theorem witness_ClosedFormIsMonotone : (53 = 21 ∨ 53 = 32 ∨ 53 = 53) ∧ 2 ^ 53 - 2 ≤ 2 ^ 53 - 1 ∧
    2 ^ 53 - 1 < 2 ^ 53 ∧ (21 = 21 ∨ 21 = 32 ∨ 21 = 53) ∧ 0 ≤ 0 ∧ 0 < 2 ^ 21 := by decide

/-- RneRoundsToNearestEven: 1/3, and the greatest finite value itself. -/
theorem witness_RneRoundsToNearestEven :
    (0 < 3 ∧ 1 * f64Scale ≤ 3 * f64Units 0x7FEFFFFFFFFFFFFF#64) ∧
    (0 < 1 ∧ ((2 ^ 53 - 1) * 2 ^ 971) * f64Scale ≤ 1 * f64Units 0x7FEFFFFFFFFFFFFF#64) := by decide +kernel

/-- RneRoundsToNearestEven, the tie clause: halfway between 0 and the least subnormal. -/
theorem witness_RneRoundsToNearestEven_tie : (1#64).toNat < 0x7FF0000000000000 ∧
    ((f64Units (rne 1 (2 ^ 1075)) * 2 ^ 1075 : Int) - 1 * f64Scale).natAbs
      = ((f64Units 1#64 * 2 ^ 1075 : Int) - 1 * f64Scale).natAbs ∧ 1#64 ≠ rne 1 (2 ^ 1075) := by decide +kernel

/-- FloatOperationsExactWhenRepresentable: the greatest integer, `1.5 * 2 = 3` and `1.5 + 2 = 3.5`. -/
theorem witness_FloatOperationsExactWhenRepresentable : 2 ^ 53 - 1 < 2 ^ 53 ∧
    (0x3FF8000000000000#64).toNat < 0x7FF0000000000000 ∧ (0x4000000000000000#64).toNat < 0x7FF0000000000000 ∧
    ((0x4008000000000000#64).toNat < 0x7FF0000000000000 ∧
      f64Units 0x3FF8000000000000#64 * f64Units 0x4000000000000000#64
        = f64Units 0x4008000000000000#64 * f64Scale) ∧
    ((0x400C000000000000#64).toNat < 0x7FF0000000000000 ∧
      f64Units 0x3FF8000000000000#64 + f64Units 0x4000000000000000#64
        = f64Units 0x400C000000000000#64) := by decide +kernel

/-- FloatOperationsExactWhenRepresentable, the rounding clauses: the product of V-F20, which is not exact; the greatest
finite value times 1 and plus 0, both ends of the range; and a reciprocal. -/
theorem witness_FloatOperationsRound : 0 < 2 ^ 21 - 1 ∧ (toF64 2049).toNat < 0x7FF0000000000000 ∧
    (recipF64 (2 ^ 21 - 1)).toNat < 0x7FF0000000000000 ∧
    f64Units (toF64 2049) * f64Units (recipF64 (2 ^ 21 - 1)) ≤ f64Units 0x7FEFFFFFFFFFFFFF#64 * f64Scale ∧
    f64Units (toF64 2049) * f64Units (recipF64 (2 ^ 21 - 1))
      ≠ f64Units (fmul (toF64 2049) (recipF64 (2 ^ 21 - 1))) * f64Scale ∧
    f64Units 0x7FEFFFFFFFFFFFFF#64 * f64Units 0x3FF0000000000000#64
      ≤ f64Units 0x7FEFFFFFFFFFFFFF#64 * f64Scale ∧
    f64Units 0x7FEFFFFFFFFFFFFF#64 + f64Units 0#64 ≤ f64Units 0x7FEFFFFFFFFFFFFF#64 := by decide +kernel

/-- OutputCommandsShareOneStream. -/
theorem witness_OutputCommandsShareOneStream :
    [Instr.nextRaw, .nextSigned].length = [Instr.nextRealOpen01, .nextRaw].length ∧
    (∀ i, i ∈ [Instr.nextRaw, .nextSigned] → i.isOutput = true) ∧
    (∀ i, i ∈ [Instr.nextRealOpen01, .nextRaw] → i.isOutput = true) ∧
    ∃ t', exec .nextRaw (machine .w32 5 true []) = .next t' := ⟨rfl, by decide, by decide, _, rfl⟩

/-- Real32FormAffectsOnly32BitReals: each alternative. -/
theorem witness_Real32FormAffectsOnly32BitReals : (machine .w64 0 true []).port = .w64 ∧
    Instr.nextRaw = .nextRaw ∧ Instr.nextSigned = .nextSigned ∧
    Instr.isOutput (.seedArray 0) = false := by decide

/-- A command on the 32-bit port, then a key write. -/
def busyHost (cmd : BitVec 8) (arg : Word .w32) : State :=
  machine .w32 624 false [.to .w32 (.command cmd arg), .to .w64 (.writeKey 0 1)]

/-- IllegalCommandsOnlyRespond and StatusByPriority: the ends of each illegal range. -/
theorem witness_IllegalCommandsOnlyRespond : ((busyHost 0x13#8 0).engine .w32).cmdReady = true ∧
    ∀ cmd, cmd ∈ [0x00#8, 0x08#8, 0x0F#8, 0x10#8, 0xFF#8] →
      (cmd = 0x00#8 ∨ (0x08 ≤ cmd.toNat ∧ cmd.toNat ≤ 0x0F) ∨ 0x10 ≤ cmd.toNat) ∧
      (busyHost cmd 0).inputs = .to .w32 (.command cmd 0) :: [.to .w64 (.writeKey 0 1)] := by
  decide

/-- NonOkStatusLeavesStateUnchanged: each of the three codes. -/
theorem witness_NonOkStatusLeavesStateUnchanged :
    (∃ t, step (busyHost 0x13#8 0) = .next t ∧ (t.engine .w32).rspStatus ≠ 0) ∧
    (∃ t, step (busyHost 0x02#8 0) = .next t ∧ (t.engine .w32).rspStatus ≠ 0) ∧
    (∃ t, step (busyHost 0x02#8 5) = .next t ∧ (t.engine .w32).rspStatus ≠ 0) :=
  ⟨⟨_, rfl, by decide⟩, ⟨_, rfl, by decide⟩, ⟨_, rfl, by decide⟩⟩

/-- StepsNeverStopOnCommands and RunAnswersEveryCommandInOrder: the invariant, and a host that keeps its duty. -/
theorem witness_RunAnswersEveryCommandInOrder : Inv (busyHost 0x03#8 0) ∧
    (∀ x, x ∈ (busyHost 0x03#8 0).inputs → keepsDuty (busyHost 0x03#8 0) x = true) ∧
    commandPorts (busyHost 0x03#8 0).inputs = [.w32] :=
  ⟨⟨⟨by decide, by decide, rfl, by decide, by decide⟩, ⟨by decide, by decide, rfl, by decide, by decide⟩,
    by decide⟩, by decide, by decide⟩

/-- The state of the busy host with its command still outstanding, or with a key write at `idx` to come. -/
def writingHost (ready : Bool) (idx : Nat) : State :=
  { machine .w32 3 true [.to .w32 (.writeKey idx 9)] with
    engine32 := { engineOf .w32 (zeros .w32) 3 true with cmdReady := ready } }

/-- HostKeyWriteWritesOneElement: the last element, the first index past it, and a busy instance. -/
theorem witness_HostKeyWriteWritesOneElement :
    (writingHost true 3).inputs = .to .w32 (.writeKey 3 9) :: [] ∧
    (((writingHost true 3).engine .w32).cmdReady = true ∧
      3 < keyLenMax ((writingHost true 3).engine .w32).kmem) ∧
    (((writingHost true 4).engine .w32).cmdReady = true ∧
      keyLenMax ((writingHost true 4).engine .w32).kmem ≤ 4) ∧
    ((writingHost false 3).engine .w32).cmdReady = false := by decide

/-- ExactlyOneResponsePerCommand, CommandsNeverWriteKeyMemory, InstancesShareNothing, StepKeepsInvariant,
ParametersNeverChange: a step that performs a command. -/
theorem witness_StepPerformsCommand : ∃ t, step (busyHost 0x03#8 0) = .next t ∧
    (busyHost 0x03#8 0).inputs = .to .w32 (.command 0x03#8 0) :: [.to .w64 (.writeKey 0 1)] := ⟨_, rfl, rfl⟩

/-- ExactlyOneResponsePerCommand, second clause: a step that performs none. -/
theorem witness_ExactlyOneResponsePerCommand : ∃ t, step (writingHost true 0) = .next t ∧
    ∀ k cmd arg rest, (writingHost true 0).inputs ≠ .to k (.command cmd arg) :: rest :=
  ⟨_, rfl, fun k cmd arg rest h => by cases k <;> simp [writingHost, machine] at h⟩

/-- HostResetGivesResetState. -/
theorem witness_HostResetGivesResetState :
    (machine .w32 3 true [.to .w64 .reset]).inputs = .to .w64 .reset :: [] := rfl

/-- SeedKeysLoadsKeysThenSeeds: as many keys as `KMEM` holds. -/
theorem witness_SeedKeysLoadsKeysThenSeeds : ((machine .w32 3 true []).engine .w32).cmdReady = true ∧
    (machine .w32 3 true []).inputs = [] ∧
    ∃ acts, seedKeys .w32 (keyLenMax ((machine .w32 3 true []).engine .w32).kmem) [1, 2, 3, 4] = some acts :=
  ⟨rfl, rfl, _, rfl⟩

/-- ResetWordsAreNeverObservable: the reset state. -/
theorem witness_ResetWordsAreNeverObservable : (State.reset.engine State.reset.port).initialized = false ∧
    (State.reset.engine State.reset.port).cursor.toNat = State.reset.port.N := by decide

/-- InstancesShareNothing, second clause: two states whose other instances differ. -/
theorem witness_InstancesShareNothing :
    (busyHost 0x03#8 0).engine32 = { busyHost 0x03#8 0 with engine64 := engineOf .w64 (zeros .w64) 1 true }.engine32 ∧
    (busyHost 0x03#8 0).engine64.cursor ≠ (engineOf .w64 (zeros .w64) 1 true).cursor ∧
    ∃ t, step (busyHost 0x03#8 0) = .next t := ⟨rfl, by decide, _, rfl⟩

/-- DecodeOfEncodeIsIdentity and EncodeOfDecodeKeepsTheWords: the widest argument of each width. -/
theorem witness_DecodeOfEncodeIsIdentity : Instr.wf .w32 (.seedArray 0xFFFFFFFF) = true ∧
    Instr.wf .w64 (.seedScalar (BitVec.allOnes 64)) = true ∧
    decode .w64 0x01#8 (BitVec.allOnes 64) = .ok (.seedScalar (BitVec.allOnes 64)) :=
  ⟨by decide, by decide, rfl⟩

/-- StepRunsDecodedCommand. -/
theorem witness_StepRunsDecodedCommand :
    (busyHost 0x01#8 5).inputs = .to .w32 (.command 0x01#8 5) :: [.to .w64 (.writeKey 0 1)] ∧
    ((busyHost 0x01#8 5).engine .w32).cmdReady = true ∧
    decode .w32 0x01#8 5 = .ok (.seedScalar 5) := ⟨rfl, rfl, rfl⟩

/-- InitializedClearedOnlyByReset: a step that clears it, and one that sets it. -/
theorem witness_InitializedClearedOnlyByReset :
    (∃ t, step (machine .w32 3 true [.to .w32 .reset]) = .next t ∧
      ((machine .w32 3 true [.to .w32 .reset]).engine .w32).initialized = true ∧
      (t.engine .w32).initialized = false) ∧
    ∃ t, step (busyHost 0x01#8 5) = .next t ∧ ((busyHost 0x01#8 5).engine .w32).initialized = false ∧
      (t.engine .w32).initialized = true := ⟨⟨_, rfl, rfl, rfl⟩, _, rfl, rfl, rfl⟩

/-- CursorMovesAsTheRulesAllow: an output inside a batch, one from an exhausted batch, an accepted seeding, a reset, and
a rejected seeding, which is none of them. -/
theorem witness_CursorMovesAsTheRulesAllow :
    (∃ t, step (machine .w32 623 true [.to .w32 (.command 0x03#8 0)]) = .next t ∧
      TakesCommand (machine .w32 623 true [.to .w32 (.command 0x03#8 0)]) .w32 (fun i => i.isOutput = true) ∧
      (t.engine .w32).cursor.toNat = 624) ∧
    (∃ t, step (machine .w32 624 true [.to .w32 (.command 0x03#8 0)]) = .next t ∧
      TakesCommand (machine .w32 624 true [.to .w32 (.command 0x03#8 0)]) .w32 (fun i => i.isOutput = true) ∧
      (t.engine .w32).cursor.toNat = 1) ∧
    (∃ t, step (machine .w32 5 true [.to .w32 (.command 0x02#8 4)]) = .next t ∧
      TakesCommand (machine .w32 5 true [.to .w32 (.command 0x02#8 4)]) .w32 (fun i => i.isOutput = false) ∧
      (t.engine .w32).rspStatus = 0) ∧
    (∃ t, step (machine .w32 5 true [.to .w32 .reset]) = .next t ∧
      ∃ rest, (machine .w32 5 true [.to .w32 .reset]).inputs = .to .w32 .reset :: rest) ∧
    ∃ t, step (machine .w32 5 true [.to .w32 (.command 0x02#8 5)]) = .next t ∧
      ¬ TakesCommand (machine .w32 5 true [.to .w32 (.command 0x02#8 5)]) .w32 (fun i => i.isOutput = true) ∧
      (t.engine .w32).rspStatus ≠ 0 ∧
      ¬ ∃ rest, (machine .w32 5 true [.to .w32 (.command 0x02#8 5)]).inputs = .to .w32 .reset :: rest := by
  refine ⟨⟨_, rfl, ⟨_, _, _, _, rfl, rfl, rfl⟩, by decide⟩, ⟨_, rfl, ⟨_, _, _, _, rfl, rfl, rfl⟩, by decide⟩,
    ⟨_, rfl, ⟨_, _, _, _, rfl, rfl, rfl⟩, by decide +kernel⟩, ⟨_, rfl, _, rfl⟩, _, rfl, ?_, by decide, by simp [machine]⟩
  rintro ⟨cmd, arg, rest, i, h, hd, hp⟩
  obtain ⟨⟨rfl, rfl⟩, -⟩ : (0x02#8 = cmd ∧ 5#32 = arg) ∧ [] = rest := by simpa [machine] using h
  obtain rfl : Instr.seedArray 5 = i := Except.ok.inj hd
  cases hp

/-- KeysBelowLengthDecideTheStream: `L = KEY_LEN_MAX` of one of two key memories of different sizes, equal below `L`. -/
theorem witness_KeysBelowLengthDecideTheStream :
    let s := { next32 with engine32 := { next32.engine32 with kmem := [0x123, 0x234, 0x345, 0x456, 9] } }
    (machine .w32 3 false []).port = s.port ∧ (machine .w32 3 false []).real32Form = s.real32Form ∧
    1 ≤ (4#32).toNat ∧ (4#32).toNat ≤ keyLenMax ((machine .w32 3 false []).engine .w32).kmem ∧
    (4#32).toNat ≤ keyLenMax (s.engine .w32).kmem ∧
    (∀ j, j < (4#32).toNat →
      memRead ((machine .w32 3 false []).engine .w32).kmem j = memRead (s.engine .w32).kmem j) ∧
    ∀ a, Instr.seedArray a ∉ [Instr.nextRaw, .seedScalar 1, .nextRealOpen01] := by
  refine ⟨rfl, rfl, by decide, by decide, by decide, fun j hj => ?_, by simp⟩
  have h : j = 0 ∨ j = 1 ∨ j = 2 ∨ j = 3 := by simp at hj; omega
  rcases h with rfl | rfl | rfl | rfl <;> rfl

/-- ClosedFormEndValues: both sides of each clause, at the ends. -/
theorem witness_ClosedFormEndValues : 2 ^ 21 - 1 < 2 ^ 21 ∧ 2 ^ 53 - 2 < 2 ^ 53 ∧ 2 ^ 53 - 3 < 2 ^ 53 ∧
    scaleClosed (2 ^ 21 - 2, 21) ≠ 0x3FF0000000000000#64 := by decide +kernel

/-- RealOutputsAreZeroOrNormal: each of the three results, at the least raw value. -/
theorem witness_RealOutputsAreZeroOrNormal : resultClosed01 (k := .w32) .mt19937ar 0 = 0 ∧
    resultHalfopen01 (k := .w32) .mt19937ar 1 = 0x3DF0000000000000 ∧
    resultOpen01 (k := .w32) .mt19937ar 0 = 0x3DE0000000000000 := by decide +kernel

/-- EnginesHoldStateBetweenCommands: an idle step, and a key write on the other instance. -/
theorem witness_EnginesHoldStateBetweenCommands : (machine .w32 3 true []).inputs = [] ∧
    ∃ t, step (writingHost true 0) = .next t ∧
      (∀ cmd arg rest, (writingHost true 0).inputs ≠ .to .w64 (.command cmd arg) :: rest) ∧
      (∀ rest, (writingHost true 0).inputs ≠ .to .w64 .reset :: rest) ∧
      ∀ idx data rest, (writingHost true 0).inputs ≠ .to .w64 (.writeKey idx data) :: rest :=
  ⟨rfl, _, rfl, by simp [writingHost, machine], by simp [writingHost, machine], by simp [writingHost, machine]⟩

/-- CommandsWhileBusyAreRefused. -/
theorem witness_CommandsWhileBusyAreRefused :
    let s := { writingHost false 0 with inputs := [.to .w32 (.command 0x03#8 0)] }
    s.inputs = .to .w32 (.command 0x03#8 0) :: [] ∧ (s.engine .w32).cmdReady = false := ⟨rfl, rfl⟩

/-- RunObservationHoldsEveryResponse: a key write at the last index, a seeding, an output; then a key write and a
`RESET` that are no part of the run. -/
theorem witness_RunObservationHoldsEveryResponse :
    (∀ a, a ∈ [HostAction.writeKey 3 9, .command 0x01#8 5, .command 0x03#8 0] →
      keepsDuty (machine .w32 3 true []) (.to .w32 a) = true) ∧
    (∀ a, a ∈ [HostAction.writeKey 9 9, .reset] → commandOn .w32 (.to .w32 a) = false) := by decide

/-- The end of a run: the last command is the third interaction of the instance's port. -/
theorem test_runEnd : runEnd .w32 [.to .w32 (.writeKey 3 9), .to .w32 (.command 0x13#8 0),
    .to .w64 (.command 0x03#8 0), .to .w32 .reset] = 2 ∧ runEnd .w32 [.to .w32 .reset] = 0 := by decide

/-- P4 of 95_test_vectors.md, its first two commands: what is observed of the responses, and that nothing is seeded. -/
theorem test_runObservation : (runObservation .w32 [.command 0x02#8 0, .command 0x13#8 0, .writeKey 0 1]
    (machine .w64 3 true [])).map (fun o => (o.responses, o.cursor.toNat, o.initialized))
      = some ([(0, 2), (0, 1)], 624, false) := by decide +kernel

/-- RunObservationStartsFromReset: two states that differ in the instance's registers. -/
theorem witness_RunObservationStartsFromReset :
    keyLenMax ((machine .w32 3 false []).engine .w32).kmem = keyLenMax (next32.engine .w32).kmem ∧
    (machine .w32 3 false []).real32Form = next32.real32Form ∧
    ((machine .w32 3 false []).engine .w32).resets = (next32.engine .w32).resets ∧
    ((machine .w32 3 false []).engine .w32).cursor ≠ (next32.engine .w32).cursor :=
  ⟨rfl, rfl, rfl, by decide⟩

/-- InterleavingIsNotObservable: interactions of both instances, by turns. -/
theorem witness_InterleavingIsNotObservable : Inv (busyHost 0x03#8 0) ∧
    (∀ x, x ∈ [HostInput.to .w32 (.command 0x03#8 0), .to .w64 (.writeKey 3 1), .to .w32 .reset] →
      keepsDuty (busyHost 0x03#8 0) x = true) ∧
    [HostInput.to .w32 (.command 0x03#8 0), .to .w64 (.writeKey 3 1), .to .w32 .reset].filter (addressedTo .w32)
      = [.to .w32 (.command 0x03#8 0), .to .w32 .reset] :=
  ⟨witness_RunAnswersEveryCommandInOrder.1, by decide, by decide⟩

end Sys2Proof.Tests
end

section
/-! SUPPORT. What a step does with an illegal command (spec R77, R182) and with a key write (R71, R205), an equation
per case; and the two obligations on them. -/

namespace Sys2Proof.Machine

variable {k : Width}

/-! ### Illegal commands -/

/-- The decoder rejects every CMD value outside the map of R76, whatever ARG (R77). -/
theorem decode_rejects_outside_map {cmd : BitVec 8} (arg : Word k)
    (hcmd : cmd = 0x00#8 ∨ (0x08 ≤ cmd.toNat ∧ cmd.toNat ≤ 0x0F) ∨ 0x10 ≤ cmd.toNat) :
    ∃ r, decode k cmd arg = .error r := by
  cases hd : decode k cmd arg with
  | error r => exact ⟨r, rfl⟩
  | ok i =>
    rcases decode_cases hd with
      ⟨rfl, -⟩ | ⟨rfl, -⟩ | ⟨rfl, -⟩ | ⟨rfl, -⟩ | ⟨rfl, -⟩ | ⟨rfl, -⟩ | ⟨rfl, -⟩ <;> simp at hcmd

/-- A command the decoder rejects is accepted, and `ILLEGAL_COMMAND` is raised on its port. -/
theorem step_rejected_command {s : State} {cmd : BitVec 8} {arg : Word k} {rest : List HostInput} {r : DecodeReject}
    (hin : s.inputs = .to k (.command cmd arg) :: rest) (hready : (s.engine k).cmdReady = true)
    (hd : decode k cmd arg = .error r) :
    step s = .next (illegalCommand (acceptCommand k (popInput rest s))) := by
  rw [step_action hin]
  simp [performAction, issueCommand, performDecoded, hready, hd]

/-- The instance an illegal command is issued on only gets the response (R181). -/
@[simp] theorem illegalCommand_accepted_engine (s : State) (k : Width) :
    (illegalCommand (acceptCommand k s)).engine k
      = raise .illegalCommand { s.engine k with cmdReady := false } :=
  (onPort_engine_port (acceptCommand k s) _).trans
    (congrArg (raise .illegalCommand) (acceptCommand_engine_same s k))

/-- The other instance is untouched (R31). -/
theorem illegalCommand_accepted_engine_ne (s : State) {j k : Width} (hj : j ≠ k) :
    (illegalCommand (acceptCommand k s)).engine j = s.engine j :=
  (onPort_engine_ne (acceptCommand k s) _ hj).trans (acceptCommand_engine_ne s hj)

@[simp] theorem illegalCommand_inputs (s : State) : (illegalCommand s).inputs = s.inputs := onPort_inputs ..

/-- Settles O31: the decoder rejects the word, and the raised status writes the response alone. -/
theorem illegalCommandsOnlyRespond : Obligations.IllegalCommandsOnlyRespond := by
  intro s k cmd arg rest hin hready hcmd
  obtain ⟨r, hd⟩ := decode_rejects_outside_map arg hcmd
  refine ⟨_, step_rejected_command hin hready hd, ?_⟩
  rw [illegalCommand_accepted_engine, popInput_engine]
  refine ⟨rfl, rfl, rfl, rfl, rfl, rfl, rfl, rfl, fun j hj => ?_, ?_⟩
  · rw [illegalCommand_accepted_engine_ne _ hj, popInput_engine]
  · simp

/-! ### Key writes -/

/-- A key write inside `KMEM` stores the element (R71). -/
theorem hostWriteKey_inside {s : State} {idx : Nat} (data : Word k) (hready : (s.engine k).cmdReady = true)
    (hidx : idx < keyLenMax (s.engine k).kmem) : hostWriteKey k idx data s
      = .next (s.setEngine k { s.engine k with kmem := memWrite (s.engine k).kmem idx data }) := by
  simp [hostWriteKey, hready, hidx]

/-- A key write at or above `KEY_LEN_MAX` is refused (R71). -/
theorem hostWriteKey_outside {s : State} {idx : Nat} (data : Word k) (hready : (s.engine k).cmdReady = true)
    (hidx : keyLenMax (s.engine k).kmem ≤ idx) :
    hostWriteKey k idx data s = .refused (.keyIndexOutOfRange k idx) := by
  simp [hostWriteKey, hready, hidx]

/-- A key write while a command is outstanding is refused, whatever its index (R205). -/
theorem hostWriteKey_busy {s : State} (idx : Nat) (data : Word k) (hbusy : (s.engine k).cmdReady = false) :
    hostWriteKey k idx data s = .refused (.keyWriteWhileBusy k) := by
  simp [hostWriteKey, hbusy]

/-- A step whose oldest pending interaction is a key write performs it. -/
theorem step_writeKey {s : State} {idx : Nat} {data : Word k} {rest : List HostInput}
    (hin : s.inputs = .to k (.writeKey idx data) :: rest) : step s = hostWriteKey k idx data (popInput rest s) :=
  step_action hin

/-- Settles O37: one equation of `hostWriteKey` per clause, and read after write on `KMEM` for the first. -/
theorem hostKeyWriteWritesOneElement : Obligations.HostKeyWriteWritesOneElement := by
  intro s k idx data rest hin
  rw [step_writeKey hin]
  refine ⟨fun hready hidx => ?_, fun hready hidx => ?_, fun hbusy => ?_⟩
  · refine ⟨_, hostWriteKey_inside data (by simpa using hready) (by simpa using hidx), ?_, ?_, ?_, ?_, ?_,
      setEngine_inputs ..⟩
    · simpa using memRead_memWrite_same _ data hidx
    · intro j hj
      simpa using memRead_memWrite_ne _ data hj
    · simp
    · simp
    · intro j hj
      rw [engine_setEngine_ne _ _ hj, popInput_engine]
  · exact hostWriteKey_outside data (by simpa using hready) (by simpa using hidx)
  · exact hostWriteKey_busy idx data (by simpa using hbusy)

end Sys2Proof.Machine
end

section
/-! SUPPORT. What the two seeding commands do on the port in use (spec R101, R103), the traces of the two passes of
array seeding (R104, R105), and the obligations on seeding. -/

namespace Sys2Proof.Machine

open Sys2Proof.Rules

variable {k : Width}

/-! ### The constants and the mix of the rules are the model's -/

theorem fSeed_eq (k : Width) : fSeed k = k.fSeed := by cases k <;> rfl

theorem bMix_eq (k : Width) : bMix k = k.bMix := by cases k <;> rfl

theorem cMix_eq (k : Width) : cMix k = k.cMix := by cases k <;> rfl

theorem arrayBaseSeed_eq (k : Width) : arrayBaseSeed k = k.arrayBaseSeed := by cases k <;> rfl

theorem msbForce_eq (k : Width) : msbForce k = k.msbForce := by cases k <;> rfl

theorem mix_eq_seedMix (p : Word k) : mix p = seedMix p := by cases k <;> rfl

/-! ### The shapes of a completed command -/

/-- Every command keeps the frame of R31, R53, R70 and R72. -/
theorem exec_commandFrame {i : Instr} {s t : State} (h : exec i s = .next t) : CommandFrame s t := by
  obtain ⟨t', ht', hvalid, hready, hkmem, hresets, hother, hform, hport, hinputs⟩ := exec_response i s
  obtain rfl : t' = t := by rw [h] at ht'; cases ht'; rfl
  exact ⟨hother, hkmem, fun j => by rw [hkmem], hresets, hready, hvalid, hform, hport, hinputs⟩

/-- An engine that completed a seeding has the registers and the response of R100, R101 and R103. -/
theorem seededResponse_of_complete {s t : State} {ws : StateVector s.port} {e : Engine s.port}
    (h : t.engine s.port = complete 0 (seeded ws e)) : SeededResponse s t := by
  simp [SeededResponse, h]

/-! ### The seeding commands -/

/-- SEED_SCALAR completes with the scalar fill from its operand (R101). -/
theorem exec_seedScalar (arg : BitVec 64) (s : State) : ∃ t, exec (.seedScalar arg) s = .next t ∧
    t.engine s.port = complete 0 (scalarFill (seedOperand s.port arg) (s.engine s.port)) :=
  ⟨_, rfl, onPort_engine_port s _⟩

/-- SEED_ARRAY does what `seedArray` does with the length in ARG (R103). -/
theorem exec_seedArray (s : State) (arg : Word s.port) : ∃ t, exec (.seedArray (arg.setWidth 64)) s = .next t ∧
    t.engine s.port = seedArray arg.toNat (s.engine s.port) := by
  refine ⟨_, rfl, ?_⟩
  rw [onPort_engine_port, keyCount, argWord, setWidth_argument]

/-- SEED_ARRAY with a length in range completes with the array fill (R103). -/
theorem exec_seedArray_accepted (s : State) (arg : Word s.port) (h1 : 1 ≤ arg.toNat)
    (hmax : arg.toNat ≤ keyLenMax (s.engine s.port).kmem) : ∃ t, exec (.seedArray (arg.setWidth 64)) s = .next t ∧
    t.engine s.port = complete 0 (arrayFill arg.toNat (s.engine s.port)) := by
  obtain ⟨t, ht, he⟩ := exec_seedArray s arg
  refine ⟨t, ht, he.trans ?_⟩
  rcases seedArray_cases arg.toNat (s.engine s.port) with ⟨h, -⟩ | ⟨h, -⟩ | ⟨-, -, h⟩
  · omega
  · omega
  · exact h

/-! ### Scalar seeding -/

/-- The words of a scalar fill follow the recurrence of R100. -/
theorem scalarFillWords_scalarSeeded (seed : Word k) (ws : StateVector k) :
    ScalarSeeded seed (readWord (scalarFillWords seed ws)) := by
  simpa only [ScalarSeeded, fSeed_eq, mix_eq_seedMix] using scalarFillWords_spec seed ws

/-- Settles O1: the scalar fill follows the recurrence from any words, and ARG reaches it whole. -/
theorem scalarSeedingFillsByRecurrence : Obligations.ScalarSeedingFillsByRecurrence := by
  intro s arg
  obtain ⟨t, ht, he⟩ := exec_seedScalar (arg.setWidth 64) s
  rw [seedOperand, argWord, setWidth_argument] at he
  refine ⟨rfl, t, ht, ?_, seededResponse_of_complete he, exec_commandFrame ht⟩
  rw [he]
  exact scalarFillWords_scalarSeeded arg _

/-! ### No zero vector -/

/-- A scalar fill from 0 writes 1 into `words[1]`, and from another seed `words[0]` is not 0 (R102). -/
theorem scalarFillWords_ne_zero (seed : Word k) (ws : StateVector k) :
    ∃ i, i < k.N ∧ readWord (scalarFillWords seed ws) i ≠ 0 := by
  have hN := N_ge_two k
  obtain ⟨hfirst, hnext⟩ := scalarFillWords_spec seed ws
  by_cases hseed : seed = 0
  · refine ⟨1, by omega, ?_⟩
    rw [hnext 1 le_rfl (by omega), Nat.sub_self, hfirst, hseed]
    cases k <;> decide
  · exact ⟨0, by omega, by rwa [hfirst]⟩

theorem msbForce_ne_zero (k : Width) : k.msbForce ≠ 0 := by cases k <;> decide

/-- Settles O7: a scalar fill leaves a word that is not 0, and array seeding forces one. -/
theorem seedingNeverLeavesZeroVector : Obligations.SeedingNeverLeavesZeroVector := by
  refine ⟨fun s arg => ?_, fun s arg h1 hmax => ?_, fun k e => scalarFillWords_ne_zero _ _⟩
  · obtain ⟨t, ht, he⟩ := exec_seedScalar arg s
    refine ⟨t, ht, ?_⟩
    rw [he]
    exact scalarFillWords_ne_zero _ _
  · obtain ⟨t, ht, he⟩ := exec_seedArray_accepted s arg h1 hmax
    refine ⟨t, ht, 0, s.port.N_pos, ?_⟩
    rw [he]
    exact (arrayFillWords_zero _ _ _).trans_ne (msbForce_ne_zero _)

/-! ### One step of a pass -/

/-- The index of a pass runs through 1 .. N-1 in a cycle (R104, R105). -/
theorem wrapped_index (k : Width) (a : Nat) :
    (if k.N ≤ 1 + a % (k.N - 1) + 1 then 1 else 1 + a % (k.N - 1) + 1) = 1 + (a + 1) % (k.N - 1) := by
  cases k <;> simp only [Width.N] <;> split <;> omega

/-- The index of a pass stays in `[1, N-1]` (R104). -/
theorem cyclic_index_bounds (k : Width) (a : Nat) : 1 ≤ 1 + a % (k.N - 1) ∧ 1 + a % (k.N - 1) < k.N := by
  have hN := N_ge_two k
  have hmod := Nat.mod_lt a (show 0 < k.N - 1 by omega)
  omega

/-- A write at `i`, then the advance of `i` with its wrap, is a step of the rules' passes. -/
theorem passStep_of_write {st st' : FillState k} {v : Word k} (h1 : 1 ≤ st.i) (hN : st.i < k.N)
    (hi : st'.i = if k.N ≤ st.i + 1 then 1 else st.i + 1)
    (hw : st'.words = if k.N ≤ st.i + 1
      then writeWord (writeWord st.words st.i v) 0 (readWord (writeWord st.words st.i v) (k.N - 1))
      else writeWord st.words st.i v) :
    PassStep st.i st'.i v (readWord st.words) (readWord st'.words) := by
  have hwrite : ∀ x, x < k.N → readWord (writeWord st.words st.i v) x = if x = st.i then v else readWord st.words x :=
    fun x hx => readWord_writeWord _ _ hN hx
  by_cases hwrap : k.N ≤ st.i + 1
  · rw [if_pos hwrap] at hi hw
    have hlast : k.N - 1 = st.i := by omega
    have hread : ∀ x, x < k.N → x ≠ 0 → readWord st'.words x = if x = st.i then v else readWord st.words x := by
      intro x hx h0
      rw [hw, readWord_writeWord _ _ k.N_pos hx, if_neg h0, hwrite x hx]
    refine ⟨?_, fun h => by omega, fun _ => ⟨hi, ?_, fun x hx hne h0 => ?_⟩⟩
    · rw [hread _ hN (by omega), if_pos rfl]
    · rw [hlast, hread _ hN (by omega), if_pos rfl, hw, readWord_writeWord_same _ _ rfl, hlast, hwrite _ hN, if_pos rfl]
    · rw [hread x hx h0, if_neg hne]
  · rw [if_neg hwrap] at hi hw
    refine ⟨?_, fun _ => ⟨hi, fun x hx hne => ?_⟩, fun h => by omega⟩
    · rw [hw, hwrite _ hN, if_pos rfl]
    · rw [hw, hwrite x hx, if_neg hne]

/-! ### The key-mixing pass -/

/-- The key-mixing pass after `n` of its steps (R104). -/
def keyMixTrace (m : Memory k) (L : Nat) (ws : StateVector k) (n : Nat) : FillState k :=
  (keyMixStep m L)^[n] { words := scalarFillWords k.arrayBaseSeed ws, i := 1, j := 0 }

theorem keyMixTrace_succ (m : Memory k) (L : Nat) (ws : StateVector k) (n : Nat) :
    keyMixTrace m L ws (n + 1) = keyMixStep m L (keyMixTrace m L ws n) := Function.iterate_succ_apply' ..

theorem keyMixTrace_i (m : Memory k) (L : Nat) (ws : StateVector k) (n : Nat) :
    (keyMixTrace m L ws n).i = 1 + n % (k.N - 1) := by
  induction n with
  | zero => rw [Nat.zero_mod]; rfl
  | succ n ih => rw [keyMixTrace_succ, (keyMixStep_indices ..).1, ih, wrapped_index]

/-- The index the key-mixing pass ends with (R104). -/
theorem keyMixPass_i (m : Memory k) (L : Nat) (ws : StateVector k) :
    (keyMixPass m L ws).i = 1 + max k.N L % (k.N - 1) := keyMixTrace_i ..

/-- The trace takes the steps of R104. -/
theorem keyMixTrace_keyMixed (m : Memory k) (L : Nat) (ws : StateVector k) :
    KeyMixed m L (fun n => readWord (keyMixTrace m L ws n).words) (fun n => (keyMixTrace m L ws n).i)
      (fun n => (keyMixTrace m L ws n).j) := by
  refine ⟨rfl, rfl, fun n _ => ?_⟩
  obtain ⟨hlow, hhigh⟩ := cyclic_index_bounds k n
  rw [← keyMixTrace_i m L ws n] at hlow hhigh
  obtain ⟨hi, hj⟩ := keyMixStep_indices m L (keyMixTrace m L ws n)
  simp only [keyMixTrace_succ, mix_eq_seedMix, bMix_eq]
  refine ⟨passStep_of_write hlow hhigh hi (keyMixStep_words ..), hj.trans ?_⟩
  split <;> split <;> omega

/-! ### The internal pass -/

/-- The internal pass from `st` after `n` of its steps (R105). -/
def internalTrace (st : FillState k) (n : Nat) : FillState k := internalStep^[n] st

theorem internalTrace_succ (st : FillState k) (n : Nat) :
    internalTrace st (n + 1) = internalStep (internalTrace st n) := Function.iterate_succ_apply' ..

/-- The pass is its trace after `N - 1` steps. -/
theorem internalPass_eq_trace (st : FillState k) : internalPass st = internalTrace st (k.N - 1) := rfl

theorem internalTrace_i {st : FillState k} {a : Nat} (h : st.i = 1 + a % (k.N - 1)) (n : Nat) :
    (internalTrace st n).i = 1 + (a + n) % (k.N - 1) := by
  induction n with
  | zero => exact h
  | succ n ih => rw [internalTrace_succ, internalStep_index, ih, wrapped_index, Nat.add_assoc]

/-- The trace takes the steps of R105, from any index in `[1, N-1]`. -/
theorem internalTrace_internallyMixed {st : FillState k} {a : Nat} (h : st.i = 1 + a % (k.N - 1)) :
    InternallyMixed (fun n => readWord (internalTrace st n).words) (fun n => (internalTrace st n).i) := by
  intro n _
  obtain ⟨hlow, hhigh⟩ := cyclic_index_bounds k (a + n)
  rw [← internalTrace_i h n] at hlow hhigh
  simp only [internalTrace_succ, mix_eq_seedMix, cMix_eq]
  exact passStep_of_write hlow hhigh (internalStep_index _) (internalStep_words _)

/-- After `N` key-mixing steps the internal pass ends where it began, at index 2 (R105). -/
theorem internalTrace_end_index {st : FillState k} (h : st.i = 1 + k.N % (k.N - 1)) :
    (internalTrace st (k.N - 1)).i = 2 := by
  rw [internalTrace_i h]
  cases k <;> rfl

/-! ### Array seeding -/

/-- Forcing `words[0]` leaves every other word as the internal pass left it (R106). -/
theorem arrayFillWords_of_pos (m : Memory k) (L : Nat) (ws : StateVector k) {x : Nat} (h0 : 0 < x) (hx : x < k.N) :
    readWord (arrayFillWords m L ws) x = readWord (internalPass (keyMixPass m L ws)).words x := by
  rw [arrayFillWords, readWord_writeWord _ _ k.N_pos hx, if_neg h0.ne']

/-- Settles O4: the traces of the two passes are the functions the rules speak of. -/
theorem seedArrayRunsBothPasses : Obligations.SeedArrayRunsBothPasses := by
  intro s arg h1 hmax
  obtain ⟨t, ht, he⟩ := exec_seedArray_accepted s arg h1 hmax
  have hwords : (t.engine s.port).words
      = arrayFillWords (s.engine s.port).kmem arg.toNat (s.engine s.port).words := by rw [he]; rfl
  have hi := keyMixPass_i (s.engine s.port).kmem arg.toNat (s.engine s.port).words
  refine ⟨t, fun n => readWord (keyMixTrace (s.engine s.port).kmem arg.toNat (s.engine s.port).words n).words,
    fun n => readWord (internalTrace (keyMixPass (s.engine s.port).kmem arg.toNat (s.engine s.port).words) n).words,
    _, _, fun n => (internalTrace (keyMixPass (s.engine s.port).kmem arg.toNat (s.engine s.port).words) n).i,
    ht, ?_, keyMixTrace_keyMixed .., rfl, fun _ _ => rfl, hi, internalTrace_internallyMixed hi, fun hL => ?_,
    fun x h0 hx => ?_, ?_, seededResponse_of_complete he, exec_commandFrame ht⟩
  · rw [arrayBaseSeed_eq]
    exact scalarFillWords_scalarSeeded _ _
  · rw [Nat.max_eq_left hL] at hi
    exact internalTrace_end_index hi
  · rw [hwords, arrayFillWords_of_pos _ _ _ h0 hx, internalPass_eq_trace]
  · rw [hwords, arrayFillWords_zero, msbForce_eq]

end Sys2Proof.Machine
end

section
/-! SUPPORT. One step of the twist as the rules write it (spec R130, R133) and its linearity over GF(2) (R136), and the
obligations on the twist. -/

namespace Sys2Proof.Machine

open Sys2Proof.Rules

variable {k : Width}

/-! ### The split and the matrix of the rules are the model's -/

/-- `UPPER_MASK` drops the `R_LOW` lower bits (R134). -/
theorem upperMask_eq_allOnes_shift (k : Width) : k.upperMask = BitVec.allOnes k.bits <<< rLow := by cases k <;> rfl

/-- `LOWER_MASK` keeps the `R_LOW` lower bits (R134). -/
theorem lowerMask_eq_ofNat (k : Width) : k.lowerMask = BitVec.ofNat k.bits (2 ^ rLow - 1) := by cases k <;> rfl

theorem matrixA_eq (k : Width) : Rules.matrixA k = k.matrixA := by cases k <;> rfl

theorem joined_eq_twistJoin (hi lo : Word k) : joined hi lo = twistJoin hi lo := by
  rw [joined, twistJoin, BitVec.shiftLeft_ushiftRight, upperMask_eq_allOnes_shift, lowerMask_eq_ofNat]

theorem timesA_eq_twistMul (x : Word k) : timesA x = twistMul x := by
  have hbit : x.getLsbD 0 = decide (x.toNat % 2 = 1) := Nat.testBit_zero _
  by_cases h : x.toNat % 2 = 1 <;> simp [timesA, twistMul, matrixA_eq, hbit, h]

/-! ### The three ranges -/

/-- The shift distance leaves a first range of two words or more (R6, R132). -/
theorem shiftDistance_bounds (k : Width) : 0 < k.M ∧ k.M + 1 < k.N := by cases k <;> decide

/-- The words of a twist are those of the three ranges (R132). -/
theorem twistWords_twisted (ws : StateVector k) : Twisted (readWord ws) (readWord (twistWords ws)) := by
  obtain ⟨hM, hMN⟩ := shiftDistance_bounds k
  simp only [Twisted, timesA_eq_twistMul, joined_eq_twistJoin]
  refine ⟨fun i hi => ?_, fun i hlow hhigh => ?_, ?_⟩
  · rw [twistWords_spec ws i (by omega), if_pos hi, if_pos (by omega)]
  · rw [twistWords_spec ws i (by omega), if_neg (by omega), if_pos (by omega)]
  · have hsource : k.N - 1 + k.M - k.N = k.M - 1 := by omega
    rw [twistWords_spec ws (k.N - 1) (by omega), if_neg (by omega), if_neg (by omega), hsource]

/-- Settles O11: the words by the three ranges, the registers by the fields of `twist`. -/
theorem twistReadsInThreeRanges : Obligations.TwistReadsInThreeRanges := fun _ e =>
  ⟨twistWords_twisted e.words, twist_cursor e, twist_initialized e, twist_rspData e, twist_rspStatus e, twist_kmem e⟩

/-! ### Linearity -/

theorem lowerMask_eq_not_upperMask (k : Width) : k.lowerMask = ~~~k.upperMask := by cases k <;> rfl

/-- The split takes each bit from exactly one of its two words (R134). -/
theorem getElem_twistJoin (hi lo : Word k) {j : Nat} (hj : j < k.bits) :
    (twistJoin hi lo)[j] = if k.upperMask[j] then hi[j] else lo[j] := by
  rw [twistJoin, lowerMask_eq_not_upperMask]
  cases h : k.upperMask[j] <;> simp [h]

theorem twistJoin_xor (a b c d : Word k) : twistJoin (a ^^^ b) (c ^^^ d) = twistJoin a c ^^^ twistJoin b d := by
  ext j hj
  simp only [BitVec.getElem_xor, getElem_twistJoin]
  split <;> rfl

/-- A conditional XOR is linear in its condition (R133). -/
theorem ite_bool_xor {w : Nat} (a b : Bool) (c : BitVec w) :
    (if a ^^ b then c else 0) = (if a then c else 0) ^^^ (if b then c else 0) := by
  cases a <;> cases b <;> simp

theorem twistMul_xor (x y : Word k) : twistMul (x ^^^ y) = twistMul x ^^^ twistMul y := by
  simp only [twistMul, BitVec.ushiftRight_xor_distrib, BitVec.getLsbD_xor, ite_bool_xor]
  ac_rfl

/-- A choice between two sums is the sum of the choices. -/
theorem ite_eq_xor {w : Nat} {p : Prop} [Decidable p] {a b c a' b' c' : BitVec w} (hpos : p → a = b ^^^ c)
    (hneg : ¬p → a' = b' ^^^ c') : (if p then a else a') = (if p then b else b') ^^^ (if p then c else c') := by
  split
  · exact hpos ‹_›
  · exact hneg ‹_›

/-- The twist is linear, word by word: the new words a step reads stand at smaller indices (R132, R136). -/
theorem twistWords_xor {u v w : StateVector k} (h : ∀ i, i < k.N → readWord w i = readWord u i ^^^ readWord v i)
    (i : Nat) (hi : i < k.N) :
    readWord (twistWords w) i = readWord (twistWords u) i ^^^ readWord (twistWords v) i := by
  obtain ⟨hM, hMN⟩ := shiftDistance_bounds k
  induction i using Nat.strongRecOn with
  | ind i ih =>
    rw [twistWords_spec w i hi, twistWords_spec u i hi, twistWords_spec v i hi, h i hi]
    have hsource := ite_eq_xor (p := i < k.N - k.M) (fun _ => h (i + k.M) (by omega))
      (fun _ => ih (i + k.M - k.N) (by omega) (by omega))
    have hnext := ite_eq_xor (p := i + 1 < k.N) (h (i + 1)) (fun _ => ih 0 (by omega) (by omega))
    rw [hsource, hnext, twistJoin_xor, twistMul_xor]
    ac_rfl

/-- The zero vector is its own sum with itself, so by linearity its twist is too. -/
theorem twistWords_zero {u : StateVector k} (h : ∀ i, i < k.N → readWord u i = 0) (i : Nat) (hi : i < k.N) :
    readWord (twistWords u) i = 0 := by
  have hsum := twistWords_xor (u := u) (v := u) (w := u) (fun j hj => by simp [h j hj]) i hi
  rwa [BitVec.xor_self] at hsum

/-- Settles O12: linearity word by word, and the zero vector as a sum. -/
theorem twistIsLinearAndFixesZero : Obligations.TwistIsLinearAndFixesZero :=
  fun _ => ⟨fun _ _ _ => twistWords_xor, fun _ => twistWords_zero⟩

end Sys2Proof.Machine
end

section
/-! SUPPORT. Rounding (spec R11) keeps the order of its numerators, and the scaling of the real outputs by `2^-n` is
exact (R156, R158). -/

namespace Sys2Proof.Machine

/-! ### Rounding is monotone -/

/-- Rounding a quotient is monotone in the dividend. -/
theorem roundEven_mono {x y d : Nat} (h : x ≤ y) :
    roundEven (x / d) (x % d) d ≤ roundEven (y / d) (y % d) d := by
  have hx := Nat.div_add_mod x d
  have hy := Nat.div_add_mod y d
  unfold roundEven
  rcases (Nat.div_le_div_right (c := d) h).lt_or_eq with hq | hq
  · split <;> split <;> omega
  · rw [hq] at hx ⊢
    split <;> split <;> omega

/-- Rounding gives the quotient or the next number. -/
theorem roundEven_bounds (q r d : Nat) : q ≤ roundEven q r d ∧ roundEven q r d ≤ q + 1 := by
  unfold roundEven
  split <;> omega

theorem f64Shift_mono {u v : Nat} (h : u ≤ v) : f64Shift u ≤ f64Shift v :=
  Nat.sub_le_sub_right (by simpa only [Nat.log2_eq_log_two] using Nat.log_mono_right h) 52

/-- The shift leaves at most 53 bits. -/
theorem div_f64Shift_lt (u : Nat) : u / 2 ^ f64Shift u < 2 ^ 53 := by
  rw [Nat.div_lt_iff_lt_mul (by positivity), ← pow_add]
  exact Nat.lt_log2_self.trans_le (Nat.pow_le_pow_right (by decide) (by unfold f64Shift; omega))

/-- Where anything is shifted out, the shift leaves 53 bits. -/
theorem le_div_f64Shift {u : Nat} (h : 0 < f64Shift u) : 2 ^ 52 ≤ u / 2 ^ f64Shift u := by
  unfold f64Shift at h ⊢
  rw [Nat.le_div_iff_mul_le (by positivity), ← pow_add, show 52 + (u.log2 - 52) = u.log2 by omega]
  exact Nat.log2_self_le (by rintro rfl; simp at h)

/-- The pattern `rne` gives to `x / den` units before it is cut off at infinity. -/
def roundedPattern (x den : Nat) : Nat :=
  f64Shift (x / den) * 2 ^ 52 +
    roundEven (x / (den * 2 ^ f64Shift (x / den))) (x % (den * 2 ^ f64Shift (x / den))) (den * 2 ^ f64Shift (x / den))

theorem rne_toNat (num den : Nat) :
    (rne num den).toNat = min (roundedPattern (num * f64Scale) den) 0x7FF0000000000000 := by
  simp only [rne, BitVec.toNat_ofNat]
  exact Nat.mod_eq_of_lt ((Nat.min_le_right _ _).trans_lt (by decide))

/-- At equal shifts the significands are in order; a greater shift makes up for a carry out of the significand. -/
theorem roundedPattern_mono {x y : Nat} (den : Nat) (h : x ≤ y) : roundedPattern x den ≤ roundedPattern y den := by
  unfold roundedPattern
  have hdiv : x / den ≤ y / den := Nat.div_le_div_right h
  rcases (f64Shift_mono hdiv).lt_or_eq with hs | hs
  · have hx := (roundEven_bounds (x / (den * 2 ^ f64Shift (x / den))) (x % (den * 2 ^ f64Shift (x / den)))
      (den * 2 ^ f64Shift (x / den))).2
    have hy := (roundEven_bounds (y / (den * 2 ^ f64Shift (y / den))) (y % (den * 2 ^ f64Shift (y / den)))
      (den * 2 ^ f64Shift (y / den))).1
    have hlt := div_f64Shift_lt (x / den)
    have hle := le_div_f64Shift (u := y / den) (by omega)
    rw [Nat.div_div_eq_div_mul] at hlt hle
    omega
  · rw [hs]
    exact Nat.add_le_add_left (roundEven_mono h) _

/-- Rounding keeps the order of the numerators (R11). -/
theorem rne_mono {a b : Nat} (den : Nat) (h : a ≤ b) : (rne a den).toNat ≤ (rne b den).toNat := by
  rw [rne_toNat, rne_toNat]
  exact min_le_min_right _ (roundedPattern_mono den (Nat.mul_le_mul_right _ h))

/-- A product is monotone in the value of its first factor. -/
theorem fmul_mono_left {a a' : BitVec 64} (b : BitVec 64) (h : f64Units a ≤ f64Units a') :
    (fmul a b).toNat ≤ (fmul a' b).toNat := rne_mono _ (Nat.mul_le_mul_right _ h)

/-- A rational up to the integer `m`, a finite value `c`, is rounded to a value up to `c`. -/
theorem rne_le_integer {num den m : Nat} {c : BitVec 64} (hd : 0 < den) (hc : c.toNat < 0x7FF0000000000000)
    (hm : f64Units c = m * f64Scale) (h : num ≤ den * m) : (rne num den).toNat ≤ c.toNat := by
  have hexact : rne (den * m) den = c := rne_exact hd c hc (by rw [hm, Nat.mul_assoc])
  exact hexact ▸ rne_mono den h

theorem f64Units_one : f64Units 0x3FF0000000000000#64 = f64Scale := by decide +kernel

/-! ### Scaling by `2^-n` -/

/-- A rational up to 1 is rounded to a value up to 1.0. -/
theorem rne_le_one {num den : Nat} (hd : 0 < den) (h : num ≤ den) : (rne num den).toNat ≤ 0x3FF0000000000000 :=
  rne_le_integer (m := 1) (c := 0x3FF0000000000000#64) hd (by decide) (by rw [f64Units_one, one_mul]) (by omega)

/-- An integer of at most 53 bits scaled by `2^-n` into `[0, 1)` is below 1.0. -/
theorem rne_scaled_lt_one {a n : Nat} (hn : n ≤ 60) (ha : a < 2 ^ 53) (h : a < 2 ^ n) :
    (rne a (2 ^ n)).toNat < 0x3FF0000000000000 := by
  refine (rne_le_one (by positivity) h.le).lt_of_ne fun heq => h.ne ?_
  have hone : rne a (2 ^ n) = 0x3FF0000000000000#64 := BitVec.eq_of_toNat_eq heq
  have hunits := f64Units_rne_scaled hn ha
  rw [hone, f64Units_one, Nat.mul_comm] at hunits
  exact (Nat.eq_of_mul_eq_mul_right f64Scale_pos hunits).symm

/-- A positive integer of at most 53 bits scaled by `2^-n` is above 0.0. -/
theorem rne_scaled_pos {a n : Nat} (hn : n ≤ 60) (ha : a < 2 ^ 53) (h : 0 < a) : 0 < (rne a (2 ^ n)).toNat := by
  refine Nat.pos_of_ne_zero fun heq => ?_
  have hzero : rne a (2 ^ n) = 0#64 := BitVec.eq_of_toNat_eq heq
  have hunits := f64Units_rne_scaled hn ha
  have hright : 0 < a * f64Scale := Nat.mul_pos h f64Scale_pos
  rw [hzero, show f64Units 0#64 = 0 by decide, Nat.zero_mul] at hunits
  omega

/-- An integer of at most 53 bits scaled by `2^-n` is finite. -/
theorem rne_scaled_finite {a n : Nat} (ha : a < 2 ^ 53) : (rne a (2 ^ n)).toNat < 0x7FF0000000000000 := by
  have hunits : f64Units 0x4340000000000000#64 = 2 ^ 53 * f64Scale := by decide +kernel
  have hle := rne_le_integer (num := a) (den := 2 ^ n) (by positivity) (by decide) hunits
    (ha.le.trans (Nat.le_mul_of_pos_left _ (by positivity)))
  exact hle.trans_lt (by decide)

/-- A value `a * 2^-m` times `2^-n` is `a * 2^-(n+m)`: the product is exact. -/
theorem fmul_f64Pow2Neg {x : BitVec 64} {a m n : Nat} (hx : f64Units x * 2 ^ m = a * f64Scale) (ha : a < 2 ^ 53)
    (hn : n + m ≤ 60) : fmul x (f64Pow2Neg n) = rne a (2 ^ (n + m)) := by
  have hp := f64Units_pow2Neg (n := n) (by omega)
  have hunits := f64Units_rne_scaled hn ha
  refine rne_exact (Nat.mul_pos f64Scale_pos f64Scale_pos) _ (rne_scaled_finite ha) ?_
  apply Nat.eq_of_mul_eq_mul_right (show 0 < 2 ^ (n + m) by positivity)
  generalize f64Scale = S at *
  calc f64Units x * f64Units (f64Pow2Neg n) * S * 2 ^ (n + m)
      = (f64Units x * 2 ^ m) * (f64Units (f64Pow2Neg n) * 2 ^ n) * S := by rw [pow_add]; ring
    _ = S * S * (f64Units (rne a (2 ^ (n + m))) * 2 ^ (n + m)) := by rw [hx, hp, hunits]; ring
    _ = S * S * f64Units (rne a (2 ^ (n + m))) * 2 ^ (n + m) := by ring

/-- The half-open conversion is `k * 2^-n` (R156). -/
theorem scaleHalfopen_eq_rne {a n : Nat} (ha : a < 2 ^ 53) (hn : n ≤ 60) : scaleHalfopen (a, n) = rne a (2 ^ n) :=
  fmul_f64Pow2Neg (m := 0) (by rw [f64Units_toF64 ha, pow_zero, Nat.mul_one]) ha hn

theorem f64Half_eq_pow2Neg : f64Half = f64Pow2Neg 1 := congrArg (rne 1) (pow_one 2).symm

/-- `k + 0.5` is exact (R158). -/
theorem f64Units_fadd_half {a : Nat} (ha : 2 * a + 1 < 2 ^ 53) :
    f64Units (fadd (toF64 a) f64Half) * 2 ^ 1 = (2 * a + 1) * f64Scale := by
  have hhalf := f64Units_pow2Neg (n := 1) (by decide)
  rw [← f64Half_eq_pow2Neg] at hhalf
  have hunits := f64Units_rne_scaled (n := 1) (by decide) ha
  have hvalue : a * f64Scale + f64Units f64Half = f64Units (rne (2 * a + 1) (2 ^ 1)) := by
    generalize f64Scale = S at *
    linarith
  have hsum : fadd (toF64 a) f64Half = rne (2 * a + 1) (2 ^ 1) := by
    refine rne_exact f64Scale_pos _ (rne_scaled_finite ha) ?_
    rw [f64Units_toF64 (by omega), hvalue, Nat.mul_comm]
  rw [hsum, hunits]

/-- The open conversion is `(k + 0.5) * 2^-n`, as one quotient (R158). -/
theorem scaleOpen_eq_rne {a n : Nat} (ha : 2 * a + 1 < 2 ^ 53) (hn : n < 60) :
    scaleOpen (a, n) = rne (2 * a + 1) (2 ^ (n + 1)) :=
  fmul_f64Pow2Neg (m := 1) (f64Units_fadd_half ha) ha hn

/-- The closed conversion of the greatest `k` is 1.0, for the three `n` of the engine (R155). -/
theorem scaleClosed_greatest {n : Nat} (hn : n = 21 ∨ n = 32 ∨ n = 53) :
    scaleClosed (2 ^ n - 1, n) = 0x3FF0000000000000#64 := by
  rcases hn with rfl | rfl | rfl <;> decide +kernel

/-- The closed conversion is up to 1.0 (R155, R159). -/
theorem scaleClosed_le_one {a n : Nat} (hn : n = 21 ∨ n = 32 ∨ n = 53) (ha : a < 2 ^ n) :
    (scaleClosed (a, n)).toNat ≤ 0x3FF0000000000000 := by
  have hpow : 2 ^ n ≤ 2 ^ 53 := Nat.pow_le_pow_right (by decide) (by omega)
  have hle : f64Units (toF64 a) ≤ f64Units (toF64 (2 ^ n - 1)) := by
    rw [f64Units_toF64 (by omega), f64Units_toF64 (by omega)]
    exact Nat.mul_le_mul_right _ (by omega)
  have hmono := fmul_mono_left (recipF64 (2 ^ n - 1)) hle
  exact hmono.trans_eq (congrArg BitVec.toNat (scaleClosed_greatest hn))

end Sys2Proof.Machine
end

section
/-! SUPPORT. The output commands (spec R150 to R161): `temper` is one-to-one, the ranges and exact values of the
results, what every output command does; and the obligations on the results. -/

namespace Sys2Proof.Machine

open Sys2Proof.Rules

variable {k : Width}

/-! ### The lines of `temper` are one-to-one -/

/-- An XOR with masked higher bits is one-to-one: from the top bit down, each bit is that of the word itself. -/
theorem xor_ushiftRight_injective {w s : Nat} (hs : 0 < s) (m : BitVec w) :
    Function.Injective fun y : BitVec w => y ^^^ ((y >>> s) &&& m) := by
  intro y z h
  have hbits : ∀ d i, w - i = d → y.getLsbD i = z.getLsbD i := by
    intro d
    induction d using Nat.strongRecOn with
    | ind d ih =>
      intro i hi
      by_cases hiw : i < w
      · have hsource : y.getLsbD (s + i) = z.getLsbD (s + i) := ih (w - (s + i)) (by omega) _ rfl
        have hbit := congrArg (BitVec.getLsbD · i) h
        simpa [hsource] using hbit
      · rw [BitVec.getLsbD_of_ge y i (by omega), BitVec.getLsbD_of_ge z i (by omega)]
  exact BitVec.eq_of_getLsbD_eq fun i _ => hbits _ i rfl

/-- An XOR with masked lower bits is one-to-one: from bit 0 up, each bit is that of the word itself. -/
theorem xor_shiftLeft_injective {w s : Nat} (hs : 0 < s) (m : BitVec w) :
    Function.Injective fun y : BitVec w => y ^^^ ((y <<< s) &&& m) := by
  intro y z h
  refine BitVec.eq_of_getLsbD_eq fun i => ?_
  induction i using Nat.strongRecOn with
  | ind i ih =>
    intro hi
    have hsource : s ≤ i → y.getLsbD (i - s) = z.getLsbD (i - s) := fun _ => ih _ (by omega) (by omega)
    have hbit := congrArg (BitVec.getLsbD · i) h
    by_cases hsi : i < s
    · simpa [hsi] using hbit
    · simpa [hsource (by omega)] using hbit

/-- `temper` is one-to-one: each of its four lines is (R150). -/
theorem temper_injective (k : Width) : Function.Injective (temper (k := k)) := by
  have hshifts : 0 < k.tU ∧ 0 < k.tS ∧ 0 < k.tT ∧ 0 < k.tL := by cases k <;> decide
  obtain ⟨hU, hS, hT, hL⟩ := hshifts
  have htemperL : Function.Injective (temperL (k := k)) := by
    have h := xor_ushiftRight_injective hL (BitVec.allOnes k.bits)
    simp only [BitVec.and_allOnes] at h
    exact h
  exact htemperL.comp ((xor_shiftLeft_injective hT k.tC).comp
    ((xor_shiftLeft_injective hS k.tB).comp (xor_ushiftRight_injective hU k.tD)))

/-- Every word is a tempered word: there are finitely many. -/
theorem temper_surjective (k : Width) : Function.Surjective (temper (k := k)) := by
  have : Finite (Word k) := Finite.of_injective BitVec.toFin fun _ _ h => BitVec.eq_of_toFin_eq h
  exact Finite.surjective_of_injective (temper_injective k)

/-! ### The result functions -/

theorem resultRaw_toNat (r : Word k) : (resultRaw r).toNat = r.toNat := by
  have hk : k.bits ≤ 64 := by cases k <;> decide
  exact BitVec.toNat_setWidth_of_le hk

theorem resultSigned_toNat (r : Word k) : (resultSigned r).toNat = r.toNat / 2 := by
  have hk : k.bits ≤ 64 := by cases k <;> decide
  rw [resultSigned, BitVec.toNat_setWidth_of_le hk, BitVec.toNat_ushiftRight, Nat.shiftRight_eq_div_pow, pow_one]

theorem resultSigned_le (r : Word k) : (resultSigned r).toNat ≤ 2 ^ (k.bits - 1) - 1 := by
  have hr := r.isLt
  rw [resultSigned_toNat]
  cases k <;> simp only [Width.bits] at hr ⊢ <;> omega

theorem resultRaw_le (r : Word k) : (resultRaw r).toNat ≤ 2 ^ k.bits - 1 := by
  have hr := r.isLt
  rw [resultRaw_toNat]
  omega

/-! ### The input of the real results -/

/-- Everywhere but on the 32-bit instance under `MT19937AR`, the top bits of the raw value are scaled (R154, R157). -/
theorem realInput_top {form : Real32Form} (h : ¬ (k = .w32 ∧ form = .mt19937ar)) (drop : Nat) (r : Word k) :
    realInput form drop k r = ((r >>> drop).toNat, k.bits - drop) := by
  cases k with
  | w64 => rfl
  | w32 =>
    cases form with
    | doc => rfl
    | mt19937ar => exact absurd ⟨rfl, rfl⟩ h

/-- The 32-bit instance under `MT19937AR` scales all 32 bits (R157). -/
theorem realInput_all {form : Real32Form} (h : k = .w32 ∧ form = .mt19937ar) (drop : Nat) (r : Word k) :
    realInput form drop k r = (r.toNat, 32) := by
  obtain ⟨rfl, rfl⟩ := h
  rfl

/-- A right shift by `drop` leaves `W - drop` bits. -/
theorem toNat_ushiftRight_lt {drop : Nat} (hdrop : drop ≤ k.bits) (r : Word k) :
    (r >>> drop).toNat < 2 ^ (k.bits - drop) := by
  rw [BitVec.toNat_ushiftRight, Nat.shiftRight_eq_div_pow, Nat.div_lt_iff_lt_mul (by positivity), ← pow_add,
    Nat.sub_add_cancel hdrop]
  exact r.isLt

/-- The integer scaled has the number of bits that is given with it (R154, R157). -/
theorem realInput_lt (form : Real32Form) {drop : Nat} (hdrop : drop ≤ 32) (r : Word k) :
    (realInput form drop k r).1 < 2 ^ (realInput form drop k r).2 := by
  by_cases h : k = .w32 ∧ form = .mt19937ar
  · rw [realInput_all h]
    obtain ⟨rfl, -⟩ := h
    exact r.isLt
  · rw [realInput_top h]
    exact toNat_ushiftRight_lt (hdrop.trans (by cases k <;> decide)) r

/-- The integer scaled has at most `64 - drop` bits (R154, R157). -/
theorem realInput_snd_le (form : Real32Form) {drop : Nat} (hdrop : drop ≤ 32) (r : Word k) :
    (realInput form drop k r).2 ≤ 64 - drop := by
  cases k with
  | w64 => exact le_rfl
  | w32 =>
    cases form with
    | doc => exact Nat.sub_le_sub_right (by decide) drop
    | mt19937ar =>
      change 32 ≤ 64 - drop
      omega

theorem realInput_fst_lt (form : Real32Form) {drop : Nat} (hdrop : drop ≤ 32) (r : Word k) :
    (realInput form drop k r).1 < 2 ^ (64 - drop) :=
  (realInput_lt form hdrop r).trans_le (Nat.pow_le_pow_right (by decide) (realInput_snd_le form hdrop r))

/-- The three sizes of the integer of the closed and the half-open result (R154, R157). -/
theorem realInput_bits (form : Real32Form) (r : Word k) :
    (realInput form 11 k r).2 = 21 ∨ (realInput form 11 k r).2 = 32 ∨ (realInput form 11 k r).2 = 53 := by
  cases k with
  | w64 => exact .inr (.inr rfl)
  | w32 =>
    cases form with
    | doc => exact .inl rfl
    | mt19937ar => exact .inr (.inl rfl)

/-! ### The ranges and exact values of the real results -/

/-- The closed result is at most 1.0 (R159). -/
theorem resultClosed01_le_one (form : Real32Form) (r : Word k) :
    (resultClosed01 form r).toNat ≤ 0x3FF0000000000000 :=
  scaleClosed_le_one (realInput_bits form r) (realInput_lt form (by decide) r)

/-- The half-open result is one exact quotient (R156). -/
theorem resultHalfopen01_eq_rne (form : Real32Form) (r : Word k) :
    resultHalfopen01 form r = rne (realInput form 11 k r).1 (2 ^ (realInput form 11 k r).2) :=
  scaleHalfopen_eq_rne (realInput_fst_lt form (by decide) r)
    ((realInput_snd_le form (by decide) r).trans (by decide))

/-- The half-open result is below 1.0 (R156, R159). -/
theorem resultHalfopen01_lt_one (form : Real32Form) (r : Word k) :
    (resultHalfopen01 form r).toNat < 0x3FF0000000000000 := by
  rw [resultHalfopen01_eq_rne]
  exact rne_scaled_lt_one ((realInput_snd_le form (by decide) r).trans (by decide))
    (realInput_fst_lt form (by decide) r) (realInput_lt form (by decide) r)

/-- The value of the half-open result (R156). -/
theorem f64Units_resultHalfopen01 (form : Real32Form) (r : Word k) :
    f64Units (resultHalfopen01 form r) * 2 ^ (realInput form 11 k r).2 = (realInput form 11 k r).1 * f64Scale := by
  rw [resultHalfopen01_eq_rne]
  exact f64Units_rne_scaled ((realInput_snd_le form (by decide) r).trans (by decide))
    (realInput_fst_lt form (by decide) r)

/-- `2 * k + 1` of the open result has at most 53 bits (R158). -/
theorem openNumerator_lt (form : Real32Form) (r : Word k) : 2 * (realInput form 12 k r).1 + 1 < 2 ^ 53 := by
  have h := realInput_fst_lt form (drop := 12) (by decide) r
  omega

/-- The open result is one exact quotient (R158). -/
theorem resultOpen01_eq_rne (form : Real32Form) (r : Word k) :
    resultOpen01 form r = rne (2 * (realInput form 12 k r).1 + 1) (2 ^ ((realInput form 12 k r).2 + 1)) :=
  scaleOpen_eq_rne (openNumerator_lt form r) ((realInput_snd_le form (by decide) r).trans_lt (by decide))

/-- The open result is strictly between 0.0 and 1.0 (R158, R159). -/
theorem resultOpen01_bounds (form : Real32Form) (r : Word k) :
    0 < (resultOpen01 form r).toNat ∧ (resultOpen01 form r).toNat < 0x3FF0000000000000 := by
  have hn : (realInput form 12 k r).2 + 1 ≤ 60 :=
    Nat.succ_le_of_lt ((realInput_snd_le form (by decide) r).trans_lt (by decide))
  have hlt := realInput_lt form (drop := 12) (by decide) r
  rw [resultOpen01_eq_rne]
  exact ⟨rne_scaled_pos hn (openNumerator_lt form r) (by omega),
    rne_scaled_lt_one hn (openNumerator_lt form r) (by rw [pow_succ]; omega)⟩

/-- The value of the open result (R158). -/
theorem f64Units_resultOpen01 (form : Real32Form) (r : Word k) :
    f64Units (resultOpen01 form r) * 2 ^ ((realInput form 12 k r).2 + 1)
      = (2 * (realInput form 12 k r).1 + 1) * f64Scale := by
  rw [resultOpen01_eq_rne]
  exact f64Units_rne_scaled (Nat.succ_le_of_lt ((realInput_snd_le form (by decide) r).trans_lt (by decide)))
    (openNumerator_lt form r)

/-- Settles O23: one bound per result function. -/
theorem outputRanges : Obligations.OutputRanges := fun _ form r =>
  ⟨resultClosed01_le_one form r, resultHalfopen01_lt_one form r, resultOpen01_bounds form r, resultSigned_le r,
    resultRaw_le r⟩

/-! ### What an output command does -/

theorem defaultSeed_eq (k : Width) : Rules.defaultSeed k = k.defaultSeed := by cases k <;> rfl

/-- An output command extracts one word, in the three cases of the twist trigger (R131, R151). -/
theorem extracts_of_output {s t : State} {f : Word s.port → BitVec 64}
    (h : t.engine s.port = output f (s.engine s.port)) : Extracts s t := by
  obtain ⟨hwords, hinit, -⟩ := output_fields f (s.engine s.port)
  have hcursor := output_cursor f (s.engine s.port)
  rw [Extracts, h, hwords, hinit, hcursor]
  rcases twistIfExhausted_cases (s.engine s.port) with ⟨hc, he⟩ | ⟨hc, hi, he⟩ | ⟨hc, hi, he⟩
  · exact ⟨fun _ => by rw [he]; exact ⟨rfl, rfl, rfl⟩, fun hge => absurd hc hge.not_gt⟩
  · rw [he]
    exact ⟨fun hlt => absurd hlt hc.not_gt, fun _ => ⟨by simp, hi, fun _ => twistWords_twisted _, by simp [hi]⟩⟩
  · rw [he]
    refine ⟨fun hlt => absurd hlt hc.not_gt, fun _ => ⟨by simp, rfl, by simp [hi], fun _ => ?_⟩⟩
    refine ⟨_, ?_, twistWords_twisted _⟩
    rw [defaultSeed_eq]
    exact scalarFillWords_scalarSeeded ..

/-- The raw value the next output command on the port in use takes, after the twist trigger (R151). -/
def nextRawValue (s : State) : Word s.port := currentWord (twistIfExhausted (s.engine s.port))

/-- A command that is `output` of a result function has the effect of an output command, takes the next raw value, and
responds with the result of it (R151, R161). -/
theorem exec_output_result {i : Instr} {s : State} (f : (k : Width) → Word k → BitVec 64)
    (h : exec i s = .next (s.onPort fun k e => output (f k) e)) : ∃ t, exec i s = .next t ∧ OutputEffect s t ∧
      rawTaken t s.port = nextRawValue s ∧ (t.engine s.port).rspData = f s.port (rawTaken t s.port) := by
  have he := onPort_engine_port s fun k e => output (f k) e
  have hraw : rawTaken (s.onPort fun k e => output (f k) e) s.port = nextRawValue s := by
    rw [rawTaken, he]
    exact (output_word ..).symm
  refine ⟨_, h, ⟨extracts_of_output he, ?_, exec_commandFrame h⟩, hraw, ?_⟩
  · rw [he]; rfl
  · rw [hraw, he]; rfl

/-! ### The integer results -/

/-- An instance about to take the tempered `y`: all its words are `y`. -/
def constantState (k : Width) (y : Word k) : State :=
  { State.reset.setEngine k { State.reset.engine k with
      words := Vector.replicate k.N y, cursor := 0, initialized := true } with port := k }

theorem nextRawValue_constantState (k : Width) (y : Word k) : nextRawValue (constantState k y) = temper y := by
  have hengine : (constantState k y).engine k = { State.reset.engine k with
      words := Vector.replicate k.N y, cursor := 0, initialized := true } :=
    (engine_with_port _ k k).trans (engine_setEngine_same ..)
  have hready : twistIfExhausted ((constantState k y).engine k) = (constantState k y).engine k :=
    if_neg (by simpa [hengine] using k.N_pos.ne')
  have hword : currentWord ((constantState k y).engine k) = temper y := by
    rw [hengine]
    simp [currentWord, readWord]
  exact (congrArg currentWord hready).trans hword

/-- Settles O16: the result is the raw value taken; a word that tempers to `v` exists, since `temper` is onto. -/
theorem nextRawReturnsTemperedWord : Obligations.NextRawReturnsTemperedWord := by
  refine ⟨fun s arg => ⟨rfl, ?_⟩, fun k v => ?_⟩
  · obtain ⟨t, ht, heffect, -, hdata⟩ := exec_output_result (i := .nextRaw) (s := s) (fun _ => resultRaw) rfl
    exact ⟨t, ht, heffect, hdata⟩
  · obtain ⟨y, hy⟩ := temper_surjective k v
    obtain ⟨t, ht, -, hraw, hdata⟩ :=
      exec_output_result (i := .nextRaw) (s := constantState k y) (fun _ => resultRaw) rfl
    rw [hraw, nextRawValue_constantState, hy] at hdata
    exact ⟨_, t, rfl, ht, hdata⟩

/-- Settles O17: the logical shift halves the raw value, which leaves `W - 1` bits. -/
theorem nextSignedReturnsShiftedWord : Obligations.NextSignedReturnsShiftedWord := by
  intro s arg
  obtain ⟨t, ht, heffect, -, hdata⟩ := exec_output_result (i := .nextSigned) (s := s) (fun _ => resultSigned) rfl
  exact ⟨rfl, t, ht, heffect, by rw [hdata, resultSigned_toNat], hdata ▸ resultSigned_le _⟩

/-! ### The real results -/

/-- Settles O19: the result is one exact quotient, its input by the form of R154 or R157. -/
theorem nextRealHalfopen01IsExact : Obligations.NextRealHalfopen01IsExact := by
  intro s arg
  obtain ⟨t, ht, heffect, -, hdata⟩ := exec_output_result (i := .nextRealHalfopen01) (s := s)
    (fun _ => resultHalfopen01 s.real32Form) rfl
  have hvalue := f64Units_resultHalfopen01 s.real32Form (rawTaken t s.port)
  refine ⟨rfl, t, ht, heffect, hdata ▸ resultHalfopen01_lt_one _ _, fun h => ?_, fun h => ?_⟩
  · rwa [← hdata, realInput_top h, BitVec.toNat_ushiftRight, Nat.shiftRight_eq_div_pow] at hvalue
  · rwa [← hdata, realInput_all h] at hvalue

/-- Settles O20: the result is one exact quotient with an odd numerator. -/
theorem nextRealOpen01IsExact : Obligations.NextRealOpen01IsExact := by
  intro s arg
  obtain ⟨t, ht, heffect, -, hdata⟩ := exec_output_result (i := .nextRealOpen01) (s := s)
    (fun _ => resultOpen01 s.real32Form) rfl
  have hvalue := f64Units_resultOpen01 s.real32Form (rawTaken t s.port)
  obtain ⟨hpos, hlt⟩ := resultOpen01_bounds s.real32Form (rawTaken t s.port)
  rw [← hdata] at hvalue hpos hlt
  refine ⟨rfl, t, ht, heffect, hpos, hlt, fun h => ?_, fun h => ?_⟩
  · rwa [realInput_top h, BitVec.toNat_ushiftRight, Nat.shiftRight_eq_div_pow] at hvalue
  · rwa [realInput_all h] at hvalue

/-! ### The output selector -/

/-- A real result in the two forms of its input (R154, R157). -/
theorem scale_realInput_forms {s : State} {b : BitVec 64} (scale : Nat × Nat → BitVec 64) {drop : Nat} {r : Word s.port}
    (h : b = scale (realInput s.real32Form drop s.port r)) :
    (¬ ScalesAllBits s → b = scale ((r >>> drop).toNat, s.port.bits - drop)) ∧
    (ScalesAllBits s → b = scale (r.toNat, 32)) :=
  ⟨fun hs => by rw [h, realInput_top hs], fun hs => by rw [h, realInput_all hs]⟩

theorem f64Half_eq_literal : f64Half = 0x3FE0000000000000#64 := by decide +kernel

/-- The open scaling in the operations of R161. -/
theorem scaleOpen_eq_fmul (a n : Nat) :
    scaleOpen (a, n) = fmul (fadd (toF64 a) 0x3FE0000000000000#64) (recipF64 (2 ^ n)) :=
  f64Half_eq_literal ▸ rfl

/-- Settles O29: the five commands take the same next raw value, and each responds with its function of it. -/
theorem outputSelectorTable : Obligations.OutputSelectorTable := by
  intro s
  refine ⟨nextRawValue s, ?_, ?_, ?_, ?_, ?_⟩
  · obtain ⟨t, ht, ⟨-, hstatus, -⟩, hraw, hdata⟩ :=
      exec_output_result (i := .nextRaw) (s := s) (fun _ => resultRaw) rfl
    exact ⟨t, ht, hstatus, hraw.symm, hraw ▸ hdata⟩
  · obtain ⟨t, ht, ⟨-, hstatus, -⟩, hraw, hdata⟩ :=
      exec_output_result (i := .nextSigned) (s := s) (fun _ => resultSigned) rfl
    exact ⟨t, ht, hstatus, hraw ▸ hdata⟩
  · obtain ⟨t, ht, ⟨-, hstatus, -⟩, hraw, hdata⟩ :=
      exec_output_result (i := .nextRealClosed01) (s := s) (fun _ => resultClosed01 s.real32Form) rfl
    exact ⟨t, ht, hstatus, scale_realInput_forms scaleClosed (hraw ▸ hdata)⟩
  · obtain ⟨t, ht, ⟨-, hstatus, -⟩, hraw, hdata⟩ :=
      exec_output_result (i := .nextRealHalfopen01) (s := s) (fun _ => resultHalfopen01 s.real32Form) rfl
    exact ⟨t, ht, hstatus, scale_realInput_forms scaleHalfopen (hraw ▸ hdata)⟩
  · obtain ⟨t, ht, ⟨-, hstatus, -⟩, hraw, hdata⟩ :=
      exec_output_result (i := .nextRealOpen01) (s := s) (fun _ => resultOpen01 s.real32Form) rfl
    have hforms := scale_realInput_forms scaleOpen (hraw ▸ hdata)
    simp only [scaleOpen_eq_fmul] at hforms
    exact ⟨t, ht, hstatus, hforms⟩

end Sys2Proof.Machine
end

section
/-! SUPPORT. The status of a command (spec R180 to R184, R186): what a step makes of the instance a command is issued on,
in one case per status; and the obligations on it. -/

namespace Sys2Proof.Machine

open Sys2Proof.Rules

variable {k : Width}

/-! ### SEED_ARRAY with a rejected length -/

/-- A command that only raises a status writes the response alone (R181). -/
theorem onlyResponse_of_raise {i : Instr} {s t : State} {st : Status} (h : exec i s = .next t)
    (he : t.engine s.port = raise st (s.engine s.port)) : OnlyResponse (statusCode st) s t := by
  simp [OnlyResponse, he, exec_commandFrame h]

/-- Settles O3: the two rejecting cases of `seedArray`, each a raise. -/
theorem seedArrayRejectsBadLength : Obligations.SeedArrayRejectsBadLength := by
  refine ⟨fun s => ?_, fun s arg hmax => ?_⟩
  · obtain ⟨t, ht, he⟩ := exec_seedArray s 0
    rw [BitVec.ofNat_eq_ofNat, BitVec.setWidth_zero] at ht
    exact ⟨t, ht, onlyResponse_of_raise (st := .invalidArgument) ht (he.trans (by simp [seedArray]))⟩
  · obtain ⟨t, ht, he⟩ := exec_seedArray s arg
    have hpos : arg.toNat ≠ 0 := by omega
    exact ⟨t, ht, onlyResponse_of_raise (st := .keyLengthExceeded) ht (he.trans (by simp [seedArray, hpos, hmax]))⟩

/-! ### The commands the decoder accepts and rejects -/

/-- The fields of CMD as a number (R74). -/
theorem cmd_toNat_fields (c : BitVec 8) : c.toNat = 16 * (cmdRsvd c).toNat + (cmdOp c).toNat := by
  revert c; decide +kernel

/-- The decoder rejects only CMD values outside the map of R76. -/
theorem cmd_outside_map_of_rejected {cmd : BitVec 8} {arg : Word k} {r : DecodeReject}
    (h : decode k cmd arg = .error r) : cmd.toNat = 0 ∨ 7 < cmd.toNat := by
  by_contra hmap
  have hfields := cmd_toNat_fields cmd
  have hrsvd : cmdRsvd cmd = 0#4 := BitVec.eq_of_toNat_eq (show (cmdRsvd cmd).toNat = 0 by omega)
  have hop : (cmdOp cmd).toNat = 1 ∨ (cmdOp cmd).toNat = 2 ∨ (cmdOp cmd).toNat = 3 ∨ (cmdOp cmd).toNat = 4 ∨
      (cmdOp cmd).toNat = 5 ∨ (cmdOp cmd).toNat = 6 ∨ (cmdOp cmd).toNat = 7 := by omega
  rcases hop with hop | hop | hop | hop | hop | hop | hop <;> simp [decode, hrsvd, hop] at h

/-- An accepted CMD is in the map of R76, and 0x02 alone is SEED_ARRAY. -/
theorem decode_seedArray_or_other {cmd : BitVec 8} {arg : Word k} {i : Instr} (h : decode k cmd arg = .ok i) :
    (cmd = 0x02#8 ∧ i = .seedArray (arg.setWidth 64)) ∨
    (cmd ≠ 0x02#8 ∧ 1 ≤ cmd.toNat ∧ cmd.toNat ≤ 7 ∧ ∀ L, i ≠ .seedArray L) := by
  rcases decode_cases h with
    ⟨rfl, rfl⟩ | hseed | ⟨rfl, rfl⟩ | ⟨rfl, rfl⟩ | ⟨rfl, rfl⟩ | ⟨rfl, rfl⟩ | ⟨rfl, rfl⟩
  case inr.inl => exact .inl hseed
  all_goals exact .inr (by simp)

/-- Every command but SEED_ARRAY completes with `OK` (R180). -/
theorem exec_status_ok {i : Instr} (hi : ∀ L, i ≠ .seedArray L) (s : State) :
    ∃ t, exec i s = .next t ∧ (t.engine s.port).rspStatus = 0 := by
  have hout (h : i.isOutput = true) : ∃ t, exec i s = .next t ∧ (t.engine s.port).rspStatus = 0 := by
    obtain ⟨f, hf⟩ := exec_output i h
    exact ⟨_, hf s, by rw [onPort_engine_port]; rfl⟩
  cases i with
  | seedScalar seed =>
    obtain ⟨t, ht, he⟩ := exec_seedScalar seed s
    exact ⟨t, ht, by rw [he, complete_rspStatus]⟩
  | seedArray L => exact absurd rfl (hi L)
  | nextRaw | nextSigned | nextRealClosed01 | nextRealHalfopen01 | nextRealOpen01 => exact hout rfl

/-! ### A step that takes a command -/

/-- The acceptance of a command leaves no trace in a raised response, which writes both strobes again (R181). -/
theorem raise_accepted (st : Status) (rest : List HostInput) (s : State) (k : Width) :
    raise st ((acceptCommand k (popInput rest s)).engine k) = raise st (s.engine k) := by
  rw [acceptCommand_engine_same, popInput_engine]
  rfl

section

variable {s : State} {cmd : BitVec 8} {arg : Word k} {rest : List HostInput}
  (hin : s.inputs = .to k (.command cmd arg) :: rest)

include hin

/-- A step performs a command only while its instance is ready (R204). -/
theorem ready_of_step_command {t : State} (h : step s = .next t) : (s.engine k).cmdReady = true := by
  by_contra hbusy
  rw [step_action hin] at h
  simp [performAction, issueCommand, hbusy] at h

/-- A decoded command is performed on the instance that accepted it (R70, R79). -/
theorem step_decoded_command {i : Instr} (hready : (s.engine k).cmdReady = true) (hd : decode k cmd arg = .ok i) :
    step s = exec i (acceptCommand k (popInput rest s)) := by
  rw [step_action hin]
  simp [performAction, issueCommand, performDecoded, hready, hd]

/-- A SEED_ARRAY issued on a ready instance, in the cases of its length (R103, R183, R184). -/
theorem step_seedArray_outcome (hready : (s.engine k).cmdReady = true)
    (hd : decode k cmd arg = .ok (.seedArray (arg.setWidth 64))) : ∃ t, step s = .next t ∧
      ((arg.toNat = 0 ∧ t.engine k = raise .invalidArgument (s.engine k)) ∨
       (keyLenMax (s.engine k).kmem < arg.toNat ∧ t.engine k = raise .keyLengthExceeded (s.engine k)) ∨
       (1 ≤ arg.toNat ∧ arg.toNat ≤ keyLenMax (s.engine k).kmem ∧ (t.engine k).rspStatus = 0)) := by
  obtain ⟨t, ht, he⟩ := exec_seedArray (acceptCommand k (popInput rest s)) arg
  replace he : t.engine k = seedArray arg.toNat ((acceptCommand k (popInput rest s)).engine k) := he
  have hcases := seedArray_cases arg.toNat ((acceptCommand k (popInput rest s)).engine k)
  rw [← he, raise_accepted, raise_accepted, acceptCommand_engine_same, popInput_engine] at hcases
  refine ⟨t, (step_decoded_command hin hready hd).trans ht, ?_⟩
  rcases hcases with hzero | hlong | ⟨hpos, hmax, hok⟩
  · exact .inl hzero
  · exact .inr (.inl hlong)
  · exact .inr (.inr ⟨hpos, hmax, by rw [hok, complete_rspStatus]⟩)

/-- What a step makes of the ready instance a command is issued on: one of the three raised statuses and nothing else, or
status `OK` (R180, R181). -/
theorem step_command_outcome (hready : (s.engine k).cmdReady = true) : ∃ t, step s = .next t ∧
    (((cmd.toNat = 0 ∨ 7 < cmd.toNat) ∧ t.engine k = raise .illegalCommand (s.engine k)) ∨
     (cmd = 0x02#8 ∧ arg.toNat = 0 ∧ t.engine k = raise .invalidArgument (s.engine k)) ∨
     (cmd = 0x02#8 ∧ keyLenMax (s.engine k).kmem < arg.toNat ∧
       t.engine k = raise .keyLengthExceeded (s.engine k)) ∨
     (1 ≤ cmd.toNat ∧ cmd.toNat ≤ 7 ∧
       (cmd = 0x02#8 → 1 ≤ arg.toNat ∧ arg.toNat ≤ keyLenMax (s.engine k).kmem) ∧
       (t.engine k).rspStatus = 0)) := by
  cases hd : decode k cmd arg with
  | error r =>
    refine ⟨_, step_rejected_command hin hready hd, .inl ⟨cmd_outside_map_of_rejected hd, ?_⟩⟩
    rw [illegalCommand_accepted_engine, popInput_engine]
    rfl
  | ok i =>
    rcases decode_seedArray_or_other hd with ⟨rfl, rfl⟩ | ⟨hcmd, hmin, hmax, hi⟩
    · obtain ⟨t, ht, ⟨hL, he⟩ | ⟨hL, he⟩ | ⟨hpos, hmax, hok⟩⟩ := step_seedArray_outcome hin hready hd
      · exact ⟨t, ht, .inr (.inl ⟨rfl, hL, he⟩)⟩
      · exact ⟨t, ht, .inr (.inr (.inl ⟨rfl, hL, he⟩))⟩
      · exact ⟨t, ht, .inr (.inr (.inr ⟨by decide, by decide, fun _ => ⟨hpos, hmax⟩, hok⟩))⟩
    · obtain ⟨t, ht, hok⟩ := exec_status_ok hi (acceptCommand k (popInput rest s))
      exact ⟨t, (step_decoded_command hin hready hd).trans ht,
        .inr (.inr (.inr ⟨hmin, hmax, fun h => absurd h hcmd, hok⟩))⟩

end

/-! ### The obligations on a step's status -/

/-- Settles O33: one case per status, each excluding those before it in the order of R186. -/
theorem statusByPriority : Obligations.StatusByPriority := by
  intro s k cmd arg rest hin hready
  obtain ⟨t, ht, hout⟩ := step_command_outcome hin hready
  refine ⟨t, ht, ?_⟩
  rcases hout with ⟨hill, he⟩ | ⟨rfl, hL, he⟩ | ⟨rfl, hL, he⟩ | ⟨hmin, hmax, hseed, hok⟩
  · rw [he, if_pos hill, raise_rspStatus, statusCode]
  · rw [he, if_neg (by decide), if_pos ⟨rfl, hL⟩, raise_rspStatus, statusCode]
  · rw [he, if_neg (by decide), if_neg (by omega), if_pos ⟨rfl, hL⟩, raise_rspStatus, statusCode]
  · have hzero : ¬ (cmd = 0x02#8 ∧ arg.toNat = 0) := fun ⟨hc, h0⟩ => by have := hseed hc; omega
    have hlong : ¬ (cmd = 0x02#8 ∧ keyLenMax (s.engine k).kmem < arg.toNat) := fun ⟨hc, hlt⟩ => by
      have := hseed hc; omega
    rw [hok, if_neg (by omega), if_neg hzero, if_neg hlong]

/-- Settles O32: a status other than `OK` was raised, and a raise keeps every register but the response. -/
theorem nonOkStatusLeavesStateUnchanged : Obligations.NonOkStatusLeavesStateUnchanged := by
  intro s t k cmd arg rest hin ht hstatus
  obtain ⟨t', ht', hout⟩ := step_command_outcome hin (ready_of_step_command hin ht)
  obtain rfl : t' = t := by rw [ht] at ht'; cases ht'; rfl
  have hraise : ∃ st, t'.engine k = raise st (s.engine k) := by
    rcases hout with ⟨-, he⟩ | ⟨-, -, he⟩ | ⟨-, -, he⟩ | ⟨-, -, -, hok⟩
    · exact ⟨_, he⟩
    · exact ⟨_, he⟩
    · exact ⟨_, he⟩
    · exact absurd hok hstatus
  obtain ⟨st, he⟩ := hraise
  simp [he]

end Sys2Proof.Machine
end

section
/-! SUPPORT. The encoder and the decoder undo each other (spec R74 to R76), the words the decoder accepts (R77, R79),
and the obligations on encoding. -/

namespace Sys2Proof

variable {k : Width}

/-! ### Decoding what was encoded -/

theorem cmdRsvd_encode (k : Width) (i : Instr) : cmdRsvd (encode k i).1 = 0#4 := cmdRsvd_cmdWord ..

theorem cmdOp_encode (k : Width) (i : Instr) : cmdOp (encode k i).1 = encodeOp i := cmdOp_cmdWord ..

/-- The decoder gives a well-formed command back: the fields of its word are its `OP` and 0000, and its argument
survives the ARG word (R74 to R76). -/
theorem decode_encode {i : Instr} (h : i.wf k = true) : decode k (encode k i).1 (encode k i).2 = .ok i := by
  rw [decode, cmdRsvd_encode, cmdOp_encode]
  cases i with
  | seedScalar arg => exact congrArg (fun a => Except.ok (Instr.seedScalar a)) (setWidth_of_fits k arg h)
  | seedArray arg => exact congrArg (fun a => Except.ok (Instr.seedArray a)) (setWidth_of_fits k arg h)
  | nextRaw | nextSigned | nextRealClosed01 | nextRealHalfopen01 | nextRealOpen01 => rfl

/-- Settles O45: the two fields of the encoded word, and the argument that fits. -/
theorem decodeOfEncodeIsIdentity : Obligations.DecodeOfEncodeIsIdentity := fun _ _ h => decode_encode h

/-! ### Encoding what was decoded -/

/-- Settles O46: each of the seven words is that of its command, and a seeding command keeps its ARG. -/
theorem encodeOfDecodeKeepsTheWords : Obligations.EncodeOfDecodeKeepsTheWords := by
  intro k cmd arg i h
  rcases decode_cases h with
    ⟨rfl, rfl⟩ | ⟨rfl, rfl⟩ | ⟨rfl, rfl⟩ | ⟨rfl, rfl⟩ | ⟨rfl, rfl⟩ | ⟨rfl, rfl⟩ | ⟨rfl, rfl⟩
  case inl => exact ⟨by simp [encode, encodeOp, cmdWord], setWidth_argument k arg⟩
  case inr.inl => exact ⟨by simp [encode, encodeOp, cmdWord], setWidth_argument k arg⟩
  all_goals exact ⟨by simp [encode, encodeOp, cmdWord], rfl⟩

/-! ### The words the decoder accepts -/

/-- A W-bit ARG word fits in W bits after its extension (R74, R80). -/
theorem argFits_setWidth (arg : Word k) : argFits k (arg.setWidth 64) = true := by
  have hk : k.bits ≤ 64 := by cases k <;> decide
  simpa [argFits, BitVec.toNat_setWidth_of_le hk] using arg.isLt

/-- The decoder gives well-formed commands only (R74, R80). -/
theorem decode_wf {cmd : BitVec 8} {arg : Word k} {i : Instr} (h : decode k cmd arg = .ok i) : i.wf k = true := by
  rcases decode_cases h with
    ⟨-, rfl⟩ | ⟨-, rfl⟩ | ⟨-, rfl⟩ | ⟨-, rfl⟩ | ⟨-, rfl⟩ | ⟨-, rfl⟩ | ⟨-, rfl⟩
  case inl => exact argFits_setWidth arg
  case inr.inl => exact argFits_setWidth arg
  all_goals rfl

/-- Settles O44: the seven accepted words are 0x01 to 0x07, and every rejected one is outside them. -/
theorem decodeAcceptsExactlySevenWords : Obligations.DecodeAcceptsExactlySevenWords := by
  refine fun k cmd arg => ⟨⟨?_, fun ⟨hmin, hmax⟩ => ?_⟩, fun i => decode_wf⟩
  · rintro ⟨i, h⟩
    rcases decode_cases h with
      ⟨rfl, -⟩ | ⟨rfl, -⟩ | ⟨rfl, -⟩ | ⟨rfl, -⟩ | ⟨rfl, -⟩ | ⟨rfl, -⟩ | ⟨rfl, -⟩ <;> decide
  · cases h : decode k cmd arg with
    | ok i => exact ⟨i, rfl⟩
    | error r =>
      have houtside := Machine.cmd_outside_map_of_rejected h
      omega

/-- Settles O47: the decoder run on each word. -/
theorem commandWordsDecode : Obligations.CommandWordsDecode := ⟨rfl, rfl, rfl, rfl, rfl, rfl, rfl, rfl⟩

end Sys2Proof
end

section
/-! SUPPORT. What a step does to one instance, said by functions of that instance alone (spec R31, R58, R70 to R72,
R192, R200, R211): every obligation on single steps follows from them. -/

namespace Sys2Proof.Machine

variable {k : Width}

/-! ### A command as a change of one instance -/

/-- The result function of an output command (R152 to R158); the two seeding commands have none. -/
def resultOf (form : Real32Form) : Instr → Word k → BitVec 64
  | .seedScalar _ => fun _ => 0
  | .seedArray _ => fun _ => 0
  | .nextRaw => resultRaw
  | .nextSigned => resultSigned
  | .nextRealClosed01 => resultClosed01 form
  | .nextRealHalfopen01 => resultHalfopen01 form
  | .nextRealOpen01 => resultOpen01 form

/-- What a command makes of the instance it is performed on (R58). -/
def commandEffect (form : Real32Form) : Instr → Engine k → Engine k
  | .seedScalar arg => seedScalar (seedOperand k arg)
  | .seedArray arg => seedArray (keyCount k arg)
  | .nextRaw => output (resultOf form .nextRaw)
  | .nextSigned => output (resultOf form .nextSigned)
  | .nextRealClosed01 => output (resultOf form .nextRealClosed01)
  | .nextRealHalfopen01 => output (resultOf form .nextRealHalfopen01)
  | .nextRealOpen01 => output (resultOf form .nextRealOpen01)

/-- A command is its effect on the instance of the port in use. -/
theorem exec_eq (i : Instr) (s : State) : exec i s = .next (s.onPort fun _ => commandEffect s.real32Form i) := by
  cases i <;> rfl

/-- The output commands are `output` of their result functions (R161). -/
theorem commandEffect_output {i : Instr} (h : i.isOutput = true) (form : Real32Form) (e : Engine k) :
    commandEffect form i e = output (resultOf form i) e := by
  cases i with
  | seedScalar arg | seedArray arg => cases h
  | nextRaw | nextSigned | nextRealClosed01 | nextRealHalfopen01 | nextRealOpen01 => rfl

/-- The three shapes of a command's effect: an output, an accepted seeding, or a status other than `OK` (R161, R181). -/
theorem commandEffect_cases (form : Real32Form) (i : Instr) (e : Engine k) :
    (i.isOutput = true ∧ commandEffect form i e = output (resultOf form i) e) ∨
    (i.isOutput = false ∧ ∃ ws, commandEffect form i e = complete 0 (seeded ws e)) ∨
    (i.isOutput = false ∧ ∃ st, statusCode st ≠ 0 ∧ commandEffect form i e = raise st e) := by
  cases i with
  | seedScalar arg => exact .inr (.inl ⟨rfl, _, rfl⟩)
  | seedArray arg =>
    rcases seedArray_cases (keyCount k arg) e with ⟨-, h⟩ | ⟨-, h⟩ | ⟨-, -, h⟩
    · exact .inr (.inr ⟨rfl, .invalidArgument, by decide, h⟩)
    · exact .inr (.inr ⟨rfl, .keyLengthExceeded, by decide, h⟩)
    · exact .inr (.inl ⟨rfl, _, h⟩)
  | nextRaw | nextSigned | nextRealClosed01 | nextRealHalfopen01 | nextRealOpen01 => exact .inl ⟨rfl, rfl⟩

/-- Every command responds, keeps the key memory and the reset count, and leaves its instance ready (R53, R70, R72). -/
theorem commandEffect_frame (form : Real32Form) (i : Instr) (e : Engine k) :
    (commandEffect form i e).kmem = e.kmem ∧ (commandEffect form i e).resets = e.resets ∧
    (commandEffect form i e).cmdReady = true ∧ (commandEffect form i e).rspValid = true := by
  rcases commandEffect_cases form i e with ⟨-, h⟩ | ⟨-, ws, h⟩ | ⟨-, st, -, h⟩ <;> rw [h]
  · obtain ⟨-, -, -, -, hkmem, hresets, hready, hvalid⟩ := output_fields (resultOf form i) e
    exact ⟨hkmem, hresets, hready, hvalid⟩
  · exact ⟨rfl, rfl, rfl, rfl⟩
  · exact ⟨rfl, rfl, rfl, rfl⟩

/-! ### A host action as a change of one instance -/

/-- What an issued command, legal or not, makes of the instance that accepted it (R70, R77). -/
def issuedEffect (form : Real32Form) (d : Except DecodeReject Instr) (e : Engine k) : Engine k :=
  match d with
  | .ok i => commandEffect form i e
  | .error _ => raise .illegalCommand e

/-- When the host may perform an action on an instance in state `e` (R71, R204, R205). -/
def actionAllowed (a : HostAction k) (e : Engine k) : Bool :=
  match a with
  | .writeKey idx _ => e.cmdReady && decide (idx < keyLenMax e.kmem)
  | .command _ _ => e.cmdReady
  | .reset => true

/-- What an allowed action makes of the instance it is addressed to (R211). -/
def actionEffect (form : Real32Form) (a : HostAction k) (e : Engine k) : Engine k :=
  match a with
  | .writeKey idx data => { e with kmem := memWrite e.kmem idx data }
  | .command cmd arg => issuedEffect form (decode k cmd arg) { e with cmdReady := false }
  | .reset => Engine.afterReset k (e.resets + 1) (keyLenMax e.kmem)

theorem actionAllowed_writeKey_iff {idx : Nat} {data : Word k} {e : Engine k} :
    actionAllowed (.writeKey idx data) e = true ↔ e.cmdReady = true ∧ idx < keyLenMax e.kmem := by
  simp [actionAllowed]

/-- The frame of `commandEffect`, for a legal or illegal command (R53, R70, R72). -/
theorem issuedEffect_frame (form : Real32Form) (d : Except DecodeReject Instr) (e : Engine k) :
    (issuedEffect form d e).kmem = e.kmem ∧ (issuedEffect form d e).resets = e.resets ∧
    (issuedEffect form d e).cmdReady = true ∧ (issuedEffect form d e).rspValid = true := by
  cases d with
  | ok i => exact commandEffect_frame form i e
  | error r => exact ⟨rfl, rfl, rfl, rfl⟩

/-- No host action changes `KEY_LEN_MAX` (R8). -/
theorem actionEffect_keyLenMax (form : Real32Form) (a : HostAction k) (e : Engine k) :
    keyLenMax (actionEffect form a e).kmem = keyLenMax e.kmem := by
  cases a with
  | writeKey idx data => exact keyLenMax_memWrite ..
  | command cmd arg => exact congrArg keyLenMax (issuedEffect_frame ..).1
  | reset => exact keyLenMax_resetMemory ..

/-- Every allowed action leaves its instance ready (R70, R200). -/
theorem actionEffect_ready (form : Real32Form) {a : HostAction k} {e : Engine k} (h : actionAllowed a e = true) :
    (actionEffect form a e).cmdReady = true := by
  cases a with
  | writeKey idx data => exact (actionAllowed_writeKey_iff.1 h).1
  | command cmd arg => exact (issuedEffect_frame ..).2.2.1
  | reset => rfl

/-! ### A step as a change of one instance -/

/-- What a step that performs action `a` on the instance of width `k` makes of the machine: the action's effect there,
the end of the response strobe on the other instance, and `rest` still to come (R31, R72, R211). -/
structure Performs (a : HostAction k) (rest : List HostInput) (s t : State) : Prop where
  acted : t.engine k = actionEffect s.real32Form a { s.engine k with rspValid := false }
  other : ∀ j, j ≠ k → t.engine j = { s.engine j with rspValid := false }
  form : t.real32Form = s.real32Form
  inputs : t.inputs = rest

/-- An issued command is its effect on the instance it is addressed to. -/
theorem performDecoded_performs (d : Except DecodeReject Instr) (rest : List HostInput) (s : State) :
    ∃ t, performDecoded exec d (acceptCommand k (popInput rest s)) = .next t ∧
      t.engine k = issuedEffect s.real32Form d { s.engine k with rspValid := false, cmdReady := false } ∧
      (∀ j, j ≠ k → t.engine j = { s.engine j with rspValid := false }) ∧
      t.real32Form = s.real32Form ∧ t.inputs = rest := by
  have honPort : ∃ f : (k : Width) → Engine k → Engine k, f k = issuedEffect s.real32Form d ∧
      performDecoded exec d (acceptCommand k (popInput rest s))
        = .next ((acceptCommand k (popInput rest s)).onPort f) := by
    cases d with
    | ok i => exact ⟨fun _ => commandEffect s.real32Form i, rfl, by rw [performDecoded, exec_eq]; simp⟩
    | error r => exact ⟨fun _ => raise .illegalCommand, rfl, rfl⟩
  obtain ⟨f, hf, hnext⟩ := honPort
  refine ⟨_, hnext, ?_, fun j hj => ?_, by simp, by simp⟩
  · have hacted := onPort_engine_port (acceptCommand k (popInput rest s)) f
    rw [acceptCommand_port, hf, acceptCommand_engine_same, popInput_engine] at hacted
    exact hacted
  · rw [onPort_engine_ne _ _ (by simpa using hj), acceptCommand_engine_ne _ hj, popInput_engine]

section

variable {s : State} {a : HostAction k} {rest : List HostInput} (hin : s.inputs = .to k a :: rest)

include hin

/-- An allowed action is performed (R211). -/
theorem step_performs (h : actionAllowed a (s.engine k) = true) : ∃ t, step s = .next t ∧ Performs a rest s t := by
  rw [step_action hin]
  cases a with
  | writeKey idx data =>
    obtain ⟨hready, hidx⟩ := actionAllowed_writeKey_iff.1 h
    refine ⟨_, hostWriteKey_inside data (by simpa using hready) (by simpa using hidx), ?_, fun j hj => ?_, ?_, ?_⟩
    · rw [engine_setEngine_same, popInput_engine]; rfl
    · rw [engine_setEngine_ne _ _ hj, popInput_engine]
    · simp
    · simp
  | command cmd arg =>
    obtain ⟨t, ht, hacted, hother, hform, hinputs⟩ :=
      performDecoded_performs (k := k) (decode k cmd arg) rest s
    refine ⟨t, ?_, hacted, hother, hform, hinputs⟩
    rw [performAction, issueCommand, if_pos (by simpa [actionAllowed] using h), ht]
  | reset =>
    refine ⟨_, rfl, ?_, fun j hj => ?_, ?_, ?_⟩
    · rw [hostReset, engine_setEngine_same, popInput_engine]; rfl
    · rw [hostReset, engine_setEngine_ne _ _ hj, popInput_engine]
    · simp [hostReset]
    · simp [hostReset]

/-- An action that is not allowed is refused (R71, R204, R205). -/
theorem step_refuses (h : actionAllowed a (s.engine k) = false) : ∃ r, step s = .refused r := by
  rw [step_action hin]
  rcases performAction_cases k a (popInput rest s) with
    ⟨idx, data, rfl, ⟨-, hr⟩ | ⟨-, -, hr⟩ | ⟨hready, hidx, -⟩⟩ |
    ⟨cmd, arg, rfl, ⟨-, hr⟩ | ⟨hready, -⟩ | ⟨hready, -⟩⟩ | ⟨rfl, -⟩
  · exact ⟨_, hr⟩
  · exact ⟨_, hr⟩
  · have hallowed : actionAllowed (.writeKey idx data) (s.engine k) = true :=
      actionAllowed_writeKey_iff.2 ⟨by simpa using hready, by simpa using hidx⟩
    exact absurd hallowed (by simp [h])
  · exact ⟨_, hr⟩
  · exact absurd hready (by simpa [actionAllowed] using h)
  · exact absurd hready (by simpa [actionAllowed] using h)
  · cases h

/-- A step that goes on performed its action. -/
theorem performs_of_step {t : State} (h : step s = .next t) :
    actionAllowed a (s.engine k) = true ∧ Performs a rest s t := by
  cases hallowed : actionAllowed a (s.engine k) with
  | true =>
    obtain ⟨t', ht', hp⟩ := step_performs hin hallowed
    obtain rfl : t' = t := Host.Outcome.next.inj (ht'.symm.trans h)
    exact ⟨rfl, hp⟩
  | false =>
    obtain ⟨r, hr⟩ := step_refuses hin hallowed
    rw [h] at hr
    cases hr

end

/-- What a step that goes on did: it was idle, or it performed the oldest pending action (R192, R211). -/
theorem step_next_cases {s t : State} (h : step s = .next t) :
    (s.inputs = [] ∧ t = beginStep s) ∨
    ∃ (k : Width) (a : HostAction k) (rest : List HostInput), s.inputs = .to k a :: rest ∧
      actionAllowed a (s.engine k) = true ∧ Performs a rest s t := by
  cases hin : s.inputs with
  | nil =>
    rw [step_idle hin] at h
    exact .inl ⟨rfl, by cases h; rfl⟩
  | cons x rest =>
    obtain ⟨k, a⟩ := x
    exact .inr ⟨k, a, rest, rfl, performs_of_step hin h⟩

end Sys2Proof.Machine
end

section
/-! SUPPORT. The invariant of the machine, kept by every step (spec R8, R21, R70, R131, R181), and the obligations on
single steps. -/

namespace Sys2Proof.Machine

open Sys2Proof.Rules

variable {k : Width}

/-! ### What a command does to `initialized` and `cursor` -/

/-- The twist trigger leaves a seeded instance where nothing seeded means an exhausted batch (R131). -/
theorem twistIfExhausted_initialized {e : Engine k} (h : e.initialized = false → e.cursor.toNat = k.N) :
    (twistIfExhausted e).initialized = true := by
  rcases twistIfExhausted_cases e with ⟨hlt, he⟩ | ⟨-, hinit, he⟩ | ⟨-, -, he⟩ <;> rw [he]
  · by_contra hinit
    exact hlt.ne (h (by simpa using hinit))
  · exact hinit
  · rfl

/-- No command clears `initialized` (R22). -/
theorem commandEffect_keeps_initialized (form : Real32Form) (i : Instr) {e : Engine k} (h : e.initialized = true) :
    (commandEffect form i e).initialized = true := by
  rcases commandEffect_cases form i e with ⟨-, he⟩ | ⟨-, ws, he⟩ | ⟨-, st, -, he⟩ <;> rw [he]
  · exact twistIfExhausted_initialized fun hinit => absurd hinit (by simp [h])
  · rfl
  · exact h

/-- No command, legal or not, clears `initialized` (R22, R181). -/
theorem issuedEffect_keeps_initialized (form : Real32Form) (d : Except DecodeReject Instr) {e : Engine k}
    (h : e.initialized = true) : (issuedEffect form d e).initialized = true := by
  cases d with
  | ok i => exact commandEffect_keeps_initialized form i h
  | error r => exact h

theorem actionEffect_command_initialized (form : Real32Form) (cmd : BitVec 8) (arg : Word k) {e : Engine k}
    (h : e.initialized = true) : (actionEffect form (.command cmd arg) e).initialized = true :=
  issuedEffect_keeps_initialized form _ (e := { e with cmdReady := false }) h

/-- An output command adds 1 to the cursor while the batch lasts, and from an exhausted batch leaves 1 (R135, R151). -/
theorem output_cursor_cases (f : Word k → BitVec 64) (e : Engine k) :
    (e.cursor.toNat < k.N ∧ (output f e).cursor.toNat = e.cursor.toNat + 1) ∨
    (k.N ≤ e.cursor.toNat ∧ (output f e).cursor.toNat = 1) := by
  rw [output_cursor]
  rcases twistIfExhausted_cases e with ⟨hlt, he⟩ | ⟨hge, -, he⟩ | ⟨hge, -, he⟩
  · exact .inl ⟨hlt, by rw [he]⟩
  · exact .inr ⟨hge, by simp [he]⟩
  · exact .inr ⟨hge, by simp [he]⟩

/-! ### The invariant -/

/-- An issued command establishes what the invariant asks of its instance, `cmd_ready` included (R21, R70, R131,
R181). -/
theorem issuedEffect_engineInv (form : Real32Form) (d : Except DecodeReject Instr) {e : Engine k}
    (hle : e.cursor.toNat ≤ k.N) (hunseeded : e.initialized = false → e.cursor.toNat = k.N)
    (hkeys : Memory.wf e.kmem = true) : EngineInv (issuedEffect form d e) := by
  have hraise (st : Status) : EngineInv (raise st e) := ⟨hle, hunseeded, rfl, hkeys, fun _ => rfl⟩
  cases d with
  | error r => exact hraise _
  | ok i =>
    rcases commandEffect_cases form i e with ⟨-, he⟩ | ⟨-, ws, he⟩ | ⟨-, st, -, he⟩ <;> rw [issuedEffect, he]
    · obtain ⟨-, hinit, -, hstatus, hkmem, -, hready, -⟩ := output_fields (resultOf form i) e
      refine ⟨?_, fun h => ?_, hready, hkmem ▸ hkeys, fun h => absurd hstatus h⟩
      · rcases output_cursor_cases (resultOf form i) e with ⟨hlt, hc⟩ | ⟨-, hc⟩ <;> rw [hc]
        · exact hlt
        · exact k.N_pos
      · rw [hinit, twistIfExhausted_initialized hunseeded] at h
        cases h
    · exact ⟨(cursor_N k).le, fun h => (by cases h), rfl, hkeys, fun h => absurd rfl h⟩
    · exact hraise st

/-- Every allowed action keeps the invariant of its instance. -/
theorem actionEffect_engineInv (form : Real32Form) (a : HostAction k) {e : Engine k} (h : EngineInv e) :
    EngineInv (actionEffect form a { e with rspValid := false }) := by
  obtain ⟨hle, hunseeded, hready, hkeys, hdata⟩ := h
  cases a with
  | writeKey idx data => exact ⟨hle, hunseeded, hready, (memWrite_wf ..).trans hkeys, hdata⟩
  | command cmd arg => exact issuedEffect_engineInv form _ hle hunseeded hkeys
  | reset => exact ⟨(cursor_N k).le, fun _ => cursor_N k, rfl, (resetMemory_wf ..).trans hkeys, fun h => absurd rfl h⟩

/-- The end of the response strobe keeps the invariant of an instance. -/
theorem EngineInv.end_strobe {e : Engine k} (h : EngineInv e) : EngineInv { e with rspValid := false } :=
  ⟨h.cursor_le, h.unseeded, h.ready, h.keys, h.error_data⟩

theorem Inv.engineInv {s : State} (h : Inv s) (k : Width) : EngineInv (s.engine k) := by
  cases k
  · exact h.engine32
  · exact h.engine64

/-- The invariant from that of the two instances, when one of them shows no response. -/
theorem inv_of_engineInv {s : State} (h : ∀ k, EngineInv (s.engine k)) {j : Width}
    (hsilent : (s.engine j).rspValid = false) : Inv s := by
  refine ⟨h .w32, h .w64, fun ⟨h32, h64⟩ => ?_⟩
  cases j
  · exact absurd h32 (by simpa using hsilent)
  · exact absurd h64 (by simpa using hsilent)

/-- There is an instance other than a given one. -/
theorem exists_other_instance (k : Width) : ∃ j : Width, j ≠ k := by
  cases k
  · exact ⟨.w64, by decide⟩
  · exact ⟨.w32, by decide⟩

/-- A performed action keeps the invariant: one instance acted, and the other shows no response. -/
theorem Performs.inv {a : HostAction k} {rest : List HostInput} {s t : State} (h : Performs a rest s t) (hinv : Inv s) :
    Inv t := by
  obtain ⟨j, hj⟩ := exists_other_instance k
  refine inv_of_engineInv (j := j) (fun i => ?_) (by rw [h.other j hj])
  by_cases hi : i = k
  · subst hi
    exact h.acted ▸ actionEffect_engineInv _ a (hinv.engineInv i)
  · exact h.other i hi ▸ (hinv.engineInv i).end_strobe

/-- Settles O50: an idle step ends the response strobes, and every other step performs an action. -/
theorem stepKeepsInvariant : Obligations.StepKeepsInvariant := by
  intro s t hinv h
  rcases step_next_cases h with ⟨-, rfl⟩ | ⟨k, a, rest, -, -, hp⟩
  · exact ⟨hinv.engine32.end_strobe, hinv.engine64.end_strobe, fun ⟨h32, _⟩ => by cases h32⟩
  · exact hp.inv hinv

/-- Settles O49: each field of `Engine.afterReset`, and key memories of at least one element. -/
theorem resetSatisfiesInvariant : Obligations.ResetSatisfiesInvariant :=
  inv_of_engineInv (j := .w32) (fun k => by
    have hkeys := reset_memory_wf k
    cases k
    · exact ⟨by decide, fun _ => rfl, rfl, hkeys, fun _ => rfl⟩
    · exact ⟨by decide, fun _ => rfl, rfl, hkeys, fun _ => rfl⟩) rfl

/-- Settles O40: the fields of `Engine.afterReset`. -/
theorem resetStateValues : Obligations.ResetStateValues := by
  intro k
  have hkeys : 1 ≤ keyLenMax (State.reset.engine k).kmem := of_decide_eq_true (reset_memory_wf k)
  cases k <;> exact ⟨rfl, rfl, rfl, rfl, rfl, rfl, hkeys⟩

/-! ### Where a step stops -/

/-- Settles O57: the first test of `issueCommand`. -/
theorem commandsWhileBusyAreRefused : Obligations.CommandsWhileBusyAreRefused := by
  intro s k cmd arg rest hin hbusy
  rw [step_action hin, performAction, issueCommand, if_neg (by simp [hbusy])]

/-- Settles O34: under the invariant every instance is ready, so only a key write outside `KMEM` is not allowed. -/
theorem stepsNeverStopOnCommands : Obligations.StepsNeverStopOnCommands := by
  intro s hinv
  cases hin : s.inputs with
  | nil => exact .inl ⟨_, step_idle hin⟩
  | cons x rest =>
    obtain ⟨k, a⟩ := x
    have hready := (hinv.engineInv k).ready
    have hgoes (h : actionAllowed a (s.engine k) = true) : ∃ t, step s = .next t := by
      obtain ⟨t, ht, -⟩ := step_performs hin h
      exact ⟨t, ht⟩
    cases a with
    | writeKey idx data =>
      by_cases hidx : idx < keyLenMax (s.engine k).kmem
      · exact .inl (hgoes (actionAllowed_writeKey_iff.2 ⟨hready, hidx⟩))
      · refine .inr ⟨k, idx, data, rest, rfl, not_lt.1 hidx, ?_⟩
        rw [step_writeKey hin]
        exact hostWriteKey_outside data (by simpa using hready) (by simpa using hidx)
    | command cmd arg => exact .inl (hgoes hready)
    | reset => exact .inl (hgoes rfl)

/-! ### Commands -/

/-- Settles O48: the accepting instance is the one whose command port is in use. -/
theorem stepRunsDecodedCommand : Obligations.StepRunsDecodedCommand := by
  intro s k cmd arg rest i hin hready hd
  refine ⟨_, step_decoded_command hin hready hd, rfl, by simp, by simp, by simp, fun j hj => ?_⟩
  rw [acceptCommand_engine_ne _ hj, popInput_engine]

/-- What a step makes of the instance it performs a decoded command on. -/
theorem commandEffect_of_step {s t : State} {cmd : BitVec 8} {arg : Word k} {rest : List HostInput} {i : Instr}
    (hin : s.inputs = .to k (.command cmd arg) :: rest) (hd : decode k cmd arg = .ok i) (h : step s = .next t) :
    t.engine k = commandEffect s.real32Form i { s.engine k with rspValid := false, cmdReady := false } := by
  have hacted := (performs_of_step hin h).2.acted
  rwa [actionEffect, hd] at hacted

/-- Settles O38: no command writes the `KMEM` of its instance, and the other instance is untouched. -/
theorem commandsNeverWriteKeyMemory : Obligations.CommandsNeverWriteKeyMemory := by
  intro s t k cmd arg rest hin h j
  obtain ⟨-, hp⟩ := performs_of_step hin h
  by_cases hj : j = k
  · subst hj
    rw [hp.acted]
    exact (issuedEffect_frame ..).1
  · rw [hp.other j hj]

/-! ### Responses -/

theorem engineResponse_of_not_valid {e : Engine k} (h : e.rspValid = false) : engineResponse e = [] := by
  simp [engineResponse, h]

/-- When every instance but one is silent, the responses delivered are those of that one (R72). -/
theorem delivered_of_others_silent {t : State} (h : ∀ j, j ≠ k → (t.engine j).rspValid = false) :
    delivered t = engineResponse (t.engine k) := by
  cases k
  · have h64 : engineResponse t.engine64 = [] := engineResponse_of_not_valid (h .w64 (by decide))
    rw [delivered, h64, List.append_nil, engine_w32]
  · have h32 : engineResponse t.engine32 = [] := engineResponse_of_not_valid (h .w32 (by decide))
    rw [delivered, h32, List.nil_append, engine_w64]

/-- A performed action delivers the response of its instance, if any (R72). -/
theorem Performs.delivered {a : HostAction k} {rest : List HostInput} {s t : State} (h : Performs a rest s t) :
    delivered t = engineResponse (t.engine k) :=
  delivered_of_others_silent fun j hj => by rw [h.other j hj]

/-- A performed command shows a response, and no other action does (R72). -/
theorem actionEffect_rspValid (form : Real32Form) (a : HostAction k) (e : Engine k) :
    (actionEffect form a { e with rspValid := false }).rspValid = commandOn k (.to k a) := by
  cases a with
  | writeKey idx data => rfl
  | command cmd arg => exact (issuedEffect_frame ..).2.2.2.trans (by simp [commandOn])
  | reset => rfl

/-- Settles O35: the strobe of the instance that acted is that of a command, and the other's has fallen. -/
theorem exactlyOneResponsePerCommand : Obligations.ExactlyOneResponsePerCommand := by
  refine fun s t h => ⟨fun k cmd arg rest hin => ?_, fun hno => ?_⟩
  · obtain ⟨-, hp⟩ := performs_of_step hin h
    have hvalid : (t.engine k).rspValid = true := by rw [hp.acted, actionEffect_rspValid]; simp [commandOn]
    rw [hp.delivered, engineResponse, if_pos hvalid]
  · rcases step_next_cases h with ⟨-, rfl⟩ | ⟨k, a, rest, hin, -, hp⟩
    · rfl
    · have hvalid : (t.engine k).rspValid = false := by
        rw [hp.acted, actionEffect_rspValid]
        cases a with
        | writeKey idx data => rfl
        | command cmd arg => exact absurd hin (hno k cmd arg rest)
        | reset => rfl
      rw [hp.delivered, engineResponse_of_not_valid hvalid]

/-! ### What no step changes, and by what cause the rest changes -/

/-- Settles O51: no action changes `KEY_LEN_MAX`, and a step keeps `REAL32_FORM`. -/
theorem parametersNeverChange : Obligations.ParametersNeverChange := by
  intro s t h
  rcases step_next_cases h with ⟨-, rfl⟩ | ⟨k, a, rest, -, -, hp⟩
  · exact ⟨rfl, fun j => by rw [beginStep_engine]⟩
  · refine ⟨hp.form, fun j => ?_⟩
    by_cases hj : j = k
    · subst hj
      rw [hp.acted]
      exact actionEffect_keyLenMax ..
    · rw [hp.other j hj]

/-- What a step made of one instance: nothing but the end of its response strobe, or the effect of an action on it. -/
theorem step_instance_cases {s t : State} (h : step s = .next t) (k : Width) :
    ((∀ (a : HostAction k) rest, s.inputs ≠ .to k a :: rest) ∧ t.engine k = { s.engine k with rspValid := false }) ∨
    ∃ (a : HostAction k) (rest : List HostInput), s.inputs = .to k a :: rest ∧
      t.engine k = actionEffect s.real32Form a { s.engine k with rspValid := false } := by
  rcases step_next_cases h with ⟨hin, rfl⟩ | ⟨j, a, rest, hin, -, hp⟩
  · exact .inl ⟨fun a rest => by simp [hin], beginStep_engine s k⟩
  · by_cases hj : k = j
    · subst hj
      exact .inr ⟨a, rest, hin, hp.acted⟩
    · refine .inl ⟨fun b rest' hb => ?_, hp.other k hj⟩
      rw [hin] at hb
      cases hb
      exact hj rfl

/-- A bit that did not change was neither cleared nor set. -/
theorem neither_cleared_nor_set {b b' : Bool} {p q : Prop} (h : b' = b) :
    (b = true → b' = false → p) ∧ (b = false → b' = true → q) := by
  subst h
  cases b' <;> simp

/-- Settles O52: a key write keeps `initialized`, a command never clears it, a reset never sets it. -/
theorem initializedClearedOnlyByReset : Obligations.InitializedClearedOnlyByReset := by
  intro s t k h
  rcases step_instance_cases h k with ⟨-, he⟩ | ⟨a, rest, hin, he⟩
  · exact neither_cleared_nor_set (by rw [he])
  · cases a with
    | writeKey idx data => exact neither_cleared_nor_set (by rw [he]; rfl)
    | command cmd arg =>
      refine ⟨fun h1 h0 => ?_, fun _ _ => ⟨cmd, arg, rest, hin⟩⟩
      have hkept := actionEffect_command_initialized s.real32Form cmd arg
        (e := { s.engine k with rspValid := false }) h1
      rw [← he, h0] at hkept
      cases hkept
    | reset => exact ⟨fun _ _ => ⟨rest, hin⟩, fun _ h1 => by rw [he] at h1; cases h1⟩

/-- Settles O53: the cursor after each shape of a command's effect, and after the other actions. -/
theorem cursorMovesAsTheRulesAllow : Obligations.CursorMovesAsTheRulesAllow := by
  refine fun s t k h => ⟨?_, ?_, ?_, fun hout hseed hreset => ?_⟩
  · rintro ⟨cmd, arg, rest, i, hin, hd, hi⟩
    rw [commandEffect_of_step hin hd h, commandEffect_output hi]
    exact output_cursor_cases _ { s.engine k with rspValid := false, cmdReady := false }
  · rintro ⟨cmd, arg, rest, i, hin, hd, hi⟩ hok
    rw [commandEffect_of_step hin hd h] at hok ⊢
    rcases commandEffect_cases s.real32Form i { s.engine k with rspValid := false, cmdReady := false } with
      ⟨hi', -⟩ | ⟨-, ws, he⟩ | ⟨-, st, hst, he⟩
    · rw [hi] at hi'
      cases hi'
    · rw [he]
      exact cursor_N k
    · rw [he] at hok
      exact absurd hok hst
  · rintro ⟨rest, hin⟩
    rw [(performs_of_step hin h).2.acted]
    exact cursor_N k
  · rcases step_instance_cases h k with ⟨-, he⟩ | ⟨a, rest, hin, he⟩
    · rw [he]
    · cases a with
      | writeKey idx data => rw [he]; rfl
      | reset => exact absurd ⟨rest, hin⟩ hreset
      | command cmd arg =>
        cases hd : decode k cmd arg with
        | error r => rw [he, actionEffect, hd]; rfl
        | ok i =>
          have he' := commandEffect_of_step hin hd h
          rcases commandEffect_cases s.real32Form i { s.engine k with rspValid := false, cmdReady := false } with
            ⟨hi, -⟩ | ⟨hi, ws, hw⟩ | ⟨-, st, -, hw⟩
          · exact absurd ⟨cmd, arg, rest, i, hin, hd, hi⟩ hout
          · exact absurd ⟨⟨cmd, arg, rest, i, hin, hd, hi⟩, by rw [he', hw]; rfl⟩ hseed
          · rw [he', hw]; rfl

/-- Settles O56: an idle step ends the strobes; of the actions that are left, a key write changes `KMEM` alone. -/
theorem enginesHoldStateBetweenCommands : Obligations.EnginesHoldStateBetweenCommands := by
  refine ⟨fun s hin => ⟨_, step_idle hin, beginStep_engine s, rfl, hin⟩, fun s t k h hcommand hreset => ?_⟩
  rcases step_instance_cases h k with ⟨-, he⟩ | ⟨a, rest, hin, he⟩ <;> rw [he]
  · exact ⟨rfl, rfl, rfl, rfl, rfl, rfl, fun _ => rfl⟩
  · cases a with
    | writeKey idx data => exact ⟨rfl, rfl, rfl, rfl, rfl, rfl, fun hwrite => absurd hin (hwrite idx data rest)⟩
    | command cmd arg => exact absurd hin (hcommand cmd arg rest)
    | reset => exact absurd hin (hreset rest)

/-- Settles O43: a performed action leaves the other instance, and its effect is a function of its own. -/
theorem instancesShareNothing : Obligations.InstancesShareNothing := by
  refine ⟨fun s t k a rest hin h => (performs_of_step hin h).2.other,
    fun s₁ s₂ t₁ k a rest₁ rest₂ hin₁ hin₂ hengine hform h => ?_⟩
  obtain ⟨hallowed, hp₁⟩ := performs_of_step hin₁ h
  obtain ⟨t₂, ht₂, hp₂⟩ := step_performs hin₂ (hengine ▸ hallowed)
  exact ⟨t₂, ht₂, by rw [hp₁.acted, hp₂.acted, hengine, hform]⟩

/-! ### Reset -/

/-- The words after a reset are its free values (R30). -/
theorem readWord_resetWords (n : Nat) {i : Nat} (hi : i < k.N) :
    readWord (resetWords k n) i = Config.resetWord k n i := by
  rw [readWord_of_lt _ hi]
  simp [resetWords]

/-- The keys after a reset are its free values (R51, R200). -/
theorem memRead_resetMemory (n : Nat) {len j : Nat} (hj : j < len) :
    memRead (resetMemory k n len) j = Config.resetKey k n j := by
  rw [memRead_of_lt _ (by simpa using hj)]
  simp [resetMemory]

/-- Settles O39: the action is always allowed, and its effect is `Engine.afterReset`. -/
theorem hostResetGivesResetState : Obligations.HostResetGivesResetState := by
  intro s k rest hin
  obtain ⟨t, ht, hp⟩ := step_performs hin rfl
  refine ⟨t, ht, ?_⟩
  rw [hp.acted]
  exact ⟨rfl, cursor_N k, rfl, rfl, rfl, rfl, fun i hi => readWord_resetWords _ hi, keyLenMax_resetMemory ..,
    fun j hj => memRead_resetMemory _ hj, hp.other, hp.inputs⟩

end Sys2Proof.Machine
end

section
/-! SUPPORT. Rounding to nearest, ties to even (spec R11): the finite patterns are ordered as their values, `rne` picks
one of the two that enclose a rational; and the obligations on the binary64 operations. -/

namespace Sys2Proof.Machine

open Sys2Proof.Rules

/-! ### The order of the patterns -/

/-- Finite patterns are ordered as their values: a greater shift makes up for any significand of 53 bits. -/
theorem f64Units_lt {a b : BitVec 64} (hb : b.toNat < 0x7FF0000000000000) (h : a.toNat < b.toNat) :
    f64Units a < f64Units b := by
  obtain ⟨sa, qa, hqa, hna, ha⟩ := f64_pattern_exists a (h.trans hb)
  obtain ⟨sb, qb, hqb, hnb, hb'⟩ := f64_pattern_exists b hb
  have hpa : a = BitVec.ofNat 64 (sa * 2 ^ 52 + qa) := by rw [← ha, BitVec.ofNat_toNat, BitVec.setWidth_eq]
  have hpb : b = BitVec.ofNat 64 (sb * 2 ^ 52 + qb) := by rw [← hb', BitVec.ofNat_toNat, BitVec.setWidth_eq]
  rw [hpa, hpb, f64Units_pattern hqa hna (ha ▸ h.trans hb), f64Units_pattern hqb hnb (hb' ▸ hb)]
  rcases Nat.lt_or_ge sa sb with hs | hs
  · calc qa * 2 ^ sa < 2 ^ 53 * 2 ^ sa := Nat.mul_lt_mul_of_pos_right hqa (by positivity)
      _ = 2 ^ 52 * 2 ^ (sa + 1) := by rw [pow_succ]; ring
      _ ≤ qb * 2 ^ sb := Nat.mul_le_mul (by omega) (Nat.pow_le_pow_right (by decide) hs)
  · obtain rfl : sa = sb := by omega
    exact Nat.mul_lt_mul_of_pos_right (by omega) (by positivity)

theorem f64Units_le {a b : BitVec 64} (hb : b.toNat < 0x7FF0000000000000) (h : a.toNat ≤ b.toNat) :
    f64Units a ≤ f64Units b := by
  rcases h.lt_or_eq with hlt | heq
  · exact (f64Units_lt hb hlt).le
  · rw [BitVec.eq_of_toNat_eq heq]

/-- A finite value has one finite pattern. -/
theorem eq_of_f64Units_eq {a b : BitVec 64} (ha : a.toNat < 0x7FF0000000000000) (hb : b.toNat < 0x7FF0000000000000)
    (h : f64Units a = f64Units b) : a = b := by
  rcases lt_trichotomy a.toNat b.toNat with hlt | heq | hgt
  · exact absurd h (f64Units_lt hb hlt).ne
  · exact BitVec.eq_of_toNat_eq heq
  · exact absurd h (f64Units_lt ha hgt).ne'

/-- `f64Units_pattern` for a significand that rounding has carried to `2^53` too: the next exponent takes it over. -/
theorem f64Units_pattern_carry {sh q : Nat} (hq : q ≤ 2 ^ 53) (hn : sh = 0 ∨ 2 ^ 52 ≤ q)
    (hf : sh * 2 ^ 52 + q < 0x7FF0000000000000) : f64Units (BitVec.ofNat 64 (sh * 2 ^ 52 + q)) = q * 2 ^ sh := by
  rcases hq.lt_or_eq with hlt | rfl
  · exact f64Units_pattern hlt hn hf
  · have hsum : sh * 2 ^ 52 + 2 ^ 53 = (sh + 1) * 2 ^ 52 + 2 ^ 52 := by omega
    rw [hsum, f64Units_pattern (by decide) (.inr le_rfl) (hsum ▸ hf), pow_succ]
    ring

/-! ### Rounding to the nearest pattern -/

/-- In a scale where the steps are `d` and the exact value is `q * d + r`, rounding takes the nearer of the two
multiples of `d` around it. No other value `B` outside that step is as near, but for a tie, which goes to the even
multiple. -/
theorem roundEven_nearest {q r d B : Nat} (hr : r < d) (hB : B ≤ q * d ∨ (q + 1) * d ≤ B) :
    ((roundEven q r d * d : Int) - (q * d + r)).natAbs ≤ ((B : Int) - (q * d + r)).natAbs ∧
    (((roundEven q r d * d : Int) - (q * d + r)).natAbs = ((B : Int) - (q * d + r)).natAbs → B ≠ roundEven q r d * d →
      roundEven q r d % 2 = 0) := by
  have hup : (q + 1) * d = q * d + d := Nat.succ_mul q d
  rw [← Nat.cast_mul, ← Nat.cast_mul]
  unfold roundEven
  split
  · rw [hup] at hB ⊢
    generalize q * d = m at *
    omega
  · rw [hup] at hB
    generalize q * d = m at *
    omega

/-- The unit of the last place of a rounded rational `x / den`, in the scale of `x`. -/
def roundingStep (x den : Nat) : Nat := den * 2 ^ f64Shift (x / den)

/-- The significand of a rounded rational `x / den`. -/
def roundedSignificand (x den : Nat) : Nat :=
  roundEven (x / roundingStep x den) (x % roundingStep x den) (roundingStep x den)

theorem roundedPattern_eq (x den : Nat) :
    roundedPattern x den = f64Shift (x / den) * 2 ^ 52 + roundedSignificand x den := rfl

theorem roundingStep_pos (x : Nat) {den : Nat} (hd : 0 < den) : 0 < roundingStep x den :=
  Nat.mul_pos hd (by positivity)

/-- The significand before rounding has at most 53 bits, and all of them unless the shift is 0. -/
theorem truncatedSignificand_bounds (x den : Nat) :
    x / roundingStep x den < 2 ^ 53 ∧ (f64Shift (x / den) = 0 ∨ 2 ^ 52 ≤ x / roundingStep x den) := by
  rw [roundingStep, ← Nat.div_div_eq_div_mul]
  exact ⟨div_f64Shift_lt _, (Nat.eq_zero_or_pos _).imp_right le_div_f64Shift⟩

/-- Rounding adds nothing or 1 to the significand. -/
theorem roundedSignificand_bounds (x den : Nat) : x / roundingStep x den ≤ roundedSignificand x den ∧
    roundedSignificand x den ≤ x / roundingStep x den + 1 := roundEven_bounds ..

/-- The value of the greatest finite pattern, in units. -/
theorem f64Units_greatest : f64Units 0x7FEFFFFFFFFFFFFF#64 = (2 ^ 53 - 1) * 2 ^ 971 * f64Scale := by decide +kernel

/-- A rational up to the greatest finite value is rounded to a finite pattern. -/
theorem roundedPattern_finite {x den : Nat} (hd : 0 < den) (hx : x ≤ den * f64Units 0x7FEFFFFFFFFFFFFF#64) :
    roundedPattern x den < 0x7FF0000000000000 := by
  have hexact : rne (den * ((2 ^ 53 - 1) * 2 ^ 971)) den = 0x7FEFFFFFFFFFFFFF#64 :=
    rne_exact hd _ (by decide) (by rw [f64Units_greatest, Nat.mul_assoc])
  have hpattern := rne_toNat (den * ((2 ^ 53 - 1) * 2 ^ 971)) den
  rw [hexact, Nat.mul_assoc, ← f64Units_greatest, show (0x7FEFFFFFFFFFFFFF#64).toNat = 0x7FEFFFFFFFFFFFFF from rfl]
    at hpattern
  have hmono := roundedPattern_mono den hx
  omega

/-- A value between neighbouring patterns does not exist: every finite one is at most `q * 2^sh` units, or at least the
next one. -/
theorem f64Units_outside_step {sh q : Nat} (hq : q < 2 ^ 53) (hn : sh = 0 ∨ 2 ^ 52 ≤ q)
    (hf : sh * 2 ^ 52 + q < 0x7FF0000000000000) {b : BitVec 64} (hb : b.toNat < 0x7FF0000000000000) :
    f64Units b ≤ q * 2 ^ sh ∨ (q + 1) * 2 ^ sh ≤ f64Units b := by
  rcases Nat.lt_or_ge (sh * 2 ^ 52 + q) b.toNat with h | h
  · right
    rw [← f64Units_pattern_carry (Nat.succ_le_of_lt hq) (by omega) (by omega)]
    exact f64Units_le hb (by rw [BitVec.toNat_ofNat]; omega)
  · left
    rw [← f64Units_pattern hq hn hf]
    exact f64Units_le (by rw [BitVec.toNat_ofNat]; omega) (by rw [BitVec.toNat_ofNat]; omega)

section

variable {x den : Nat} {r : BitVec 64} (hfinite : r.toNat < 0x7FF0000000000000) (hr : r.toNat = roundedPattern x den)

include hfinite hr

/-- The value of the rounded pattern is its significand, in steps. -/
theorem f64Units_mul_of_roundedPattern : f64Units r * den = roundedSignificand x den * roundingStep x den := by
  obtain ⟨hq, hn⟩ := truncatedSignificand_bounds x den
  obtain ⟨hlow, hhigh⟩ := roundedSignificand_bounds x den
  have hpattern : r = BitVec.ofNat 64 (f64Shift (x / den) * 2 ^ 52 + roundedSignificand x den) := by
    rw [← roundedPattern_eq, ← hr, BitVec.ofNat_toNat, BitVec.setWidth_eq]
  rw [roundedPattern_eq] at hr
  have hunits : f64Units r = roundedSignificand x den * 2 ^ f64Shift (x / den) := by
    rw [hpattern]
    exact f64Units_pattern_carry (by omega) (by omega) (by omega)
  rw [hunits, roundingStep]
  ring

/-- No finite value lies strictly within the step that holds `x / den`. -/
theorem f64Units_mul_outside_step {b : BitVec 64} (hb : b.toNat < 0x7FF0000000000000) :
    f64Units b * den ≤ x / roundingStep x den * roundingStep x den ∨
    (x / roundingStep x den + 1) * roundingStep x den ≤ f64Units b * den := by
  obtain ⟨hq, hn⟩ := truncatedSignificand_bounds x den
  obtain ⟨hlow, -⟩ := roundedSignificand_bounds x den
  rw [roundedPattern_eq] at hr
  have hstep (m : Nat) : m * roundingStep x den = m * 2 ^ f64Shift (x / den) * den := by rw [roundingStep]; ring
  rw [hstep, hstep]
  exact (f64Units_outside_step hq hn (by omega) hb).imp (Nat.mul_le_mul_right den) (Nat.mul_le_mul_right den)

end

/-- The pattern `rne` gives to a rational in range is nearest to it, ties to even (R11). -/
theorem nearestEven_roundedPattern {x den : Nat} (hd : 0 < den) (hx : x ≤ den * f64Units 0x7FEFFFFFFFFFFFFF#64)
    {r : BitVec 64} (hr : r.toNat = roundedPattern x den) : NearestEven r x den := by
  have hfinite : r.toNat < 0x7FF0000000000000 := hr ▸ roundedPattern_finite hd hx
  have hvalue := f64Units_mul_of_roundedPattern hfinite hr
  refine ⟨hfinite, fun b hb => ?_⟩
  obtain ⟨hle, htie⟩ := roundEven_nearest (Nat.mod_lt x (roundingStep_pos x hd))
    (f64Units_mul_outside_step hfinite hr hb)
  have hrcast : (f64Units r * den : Int) = roundedSignificand x den * roundingStep x den := by exact_mod_cast hvalue
  have hxcast : (x : Int) = (x / roundingStep x den : Nat) * roundingStep x den + (x % roundingStep x den : Nat) := by
    exact_mod_cast (Nat.div_add_mod' x (roundingStep x den)).symm
  rw [← hxcast, ← roundedSignificand, ← hrcast, Nat.cast_mul] at hle htie
  refine ⟨hle, fun heq hne => ?_⟩
  have heven : roundedSignificand x den % 2 = 0 := htie heq fun h =>
    hne (eq_of_f64Units_eq hb hfinite (Nat.eq_of_mul_eq_mul_right hd (h.trans hvalue.symm)))
  have hbit : r.getLsbD 0 = decide (r.toNat % 2 = 1) := Nat.testBit_zero _
  rw [roundedPattern_eq] at hr
  rw [hbit, decide_eq_false]
  omega

/-- `rne` rounds to nearest, ties to even (R11). -/
theorem nearestEven_rne {num den : Nat} (hd : 0 < den) (hx : num * f64Scale ≤ den * f64Units 0x7FEFFFFFFFFFFFFF#64) :
    NearestEven (rne num den) (num * f64Scale) den :=
  nearestEven_roundedPattern hd hx ((rne_toNat num den).trans (Nat.min_eq_left (roundedPattern_finite hd hx).le))

/-- Settles O24: the rounded pattern is one of the two that enclose the rational. -/
theorem rneRoundsToNearestEven : Obligations.RneRoundsToNearestEven := fun _ _ => nearestEven_rne

/-! ### The binary64 operations -/

/-- A common factor of numerator and denominator does not change what is nearest. -/
theorem NearestEven.cancel {r : BitVec 64} {num den c : Nat} (hc : 0 < c) (h : NearestEven r (num * c) (den * c)) :
    NearestEven r num den := by
  obtain ⟨hfinite, hnear⟩ := h
  refine ⟨hfinite, fun b hb => ?_⟩
  have hscale (u : Nat) :
      ((u * (den * c : Nat) : Int) - (num * c : Nat)).natAbs = ((u * den : Int) - num).natAbs * c := by
    rw [show ((u * (den * c : Nat) : Int) - (num * c : Nat)) = ((u * den : Int) - num) * c by push_cast; ring,
      Int.natAbs_mul, Int.natAbs_natCast]
  obtain ⟨hle, htie⟩ := hnear b hb
  rw [hscale, hscale] at hle htie
  exact ⟨Nat.le_of_mul_le_mul_right hle hc, fun heq => htie (by rw [heq])⟩

/-- 1 is in the range of finite values. -/
theorem f64Scale_le_greatest : f64Scale ≤ f64Units 0x7FEFFFFFFFFFFFFF#64 := by
  rw [f64Units_greatest]
  exact Nat.le_mul_of_pos_left _ (by positivity)

/-- The reciprocal of a positive integer is rounded to nearest, ties to even (R11). -/
theorem nearestEven_recipF64 {d : Nat} (hd : 0 < d) : NearestEven (recipF64 d) f64Scale d := by
  have h : NearestEven (recipF64 d) (1 * f64Scale) d :=
    nearestEven_rne hd (Nat.mul_le_mul hd f64Scale_le_greatest)
  rwa [Nat.one_mul] at h

/-- A product in range is rounded to nearest, ties to even (R11). -/
theorem nearestEven_fmul {a b : BitVec 64} (h : f64Units a * f64Units b ≤ f64Units 0x7FEFFFFFFFFFFFFF#64 * f64Scale) :
    NearestEven (fmul a b) (f64Units a * f64Units b) f64Scale := by
  refine NearestEven.cancel f64Scale_pos (nearestEven_rne (Nat.mul_pos f64Scale_pos f64Scale_pos) ?_)
  calc f64Units a * f64Units b * f64Scale ≤ f64Units 0x7FEFFFFFFFFFFFFF#64 * f64Scale * f64Scale :=
        Nat.mul_le_mul_right _ h
    _ = f64Scale * f64Scale * f64Units 0x7FEFFFFFFFFFFFFF#64 := by rw [Nat.mul_assoc, Nat.mul_comm]

/-- A sum in range is rounded to nearest, ties to even (R11). -/
theorem nearestEven_fadd {a b : BitVec 64} (h : f64Units a + f64Units b ≤ f64Units 0x7FEFFFFFFFFFFFFF#64) :
    NearestEven (fadd a b) (f64Units a + f64Units b) 1 := by
  refine NearestEven.cancel (c := f64Scale) f64Scale_pos ?_
  rw [Nat.one_mul]
  refine nearestEven_rne f64Scale_pos ?_
  rw [Nat.mul_comm]
  exact Nat.mul_le_mul_left _ h

/-- Settles O25: each operation rounds its exact result, and a representable one is left as it is. -/
theorem floatOperationsExactWhenRepresentable : Obligations.FloatOperationsExactWhenRepresentable := by
  refine ⟨fun n => f64Units_toF64, fun d => nearestEven_recipF64, fun a b _ _ => ⟨nearestEven_fmul, nearestEven_fadd⟩,
    fun a b c _ _ hc h => ?_, fun a b c _ _ hc h => ?_⟩
  · exact rne_exact (Nat.mul_pos f64Scale_pos f64Scale_pos) c hc (by rw [h, Nat.mul_assoc, Nat.mul_comm])
  · exact rne_exact f64Scale_pos c hc (by rw [h, Nat.mul_comm])

/-! ### The closed form -/

/-- Settles O22: `toF64` is exact on the engine's integers, and a product keeps the order of its first factor. -/
theorem closedFormIsMonotone : Obligations.ClosedFormIsMonotone := by
  intro n a a' hn hle hlt
  have hpow : 2 ^ n ≤ 2 ^ 53 := Nat.pow_le_pow_right (by decide) (by omega)
  refine fmul_mono_left _ ?_
  rw [f64Units_toF64 (by omega), f64Units_toF64 (by omega)]
  exact Nat.mul_le_mul_right _ hle

/-- The closed form of 0 is 0.0. -/
theorem scaleClosed_zero (n : Nat) : scaleClosed (0, n) = 0 := by
  have hzero : f64Units (toF64 0) = 0 := by rw [f64Units_toF64 (by decide), Nat.zero_mul]
  rw [scaleClosed, fmul, hzero, Nat.zero_mul, rne_zero (Nat.mul_pos f64Scale_pos f64Scale_pos)]

/-- Below a `k` whose closed form is below 1.0, no closed form is 1.0. -/
theorem scaleClosed_ne_one {n a m : Nat} (hn : n = 21 ∨ n = 32 ∨ n = 53) (hle : a ≤ m) (hm : m < 2 ^ n)
    (hlt : (scaleClosed (m, n)).toNat < 0x3FF0000000000000) : scaleClosed (a, n) ≠ 0x3FF0000000000000#64 := by
  intro h
  have hmono := closedFormIsMonotone n a m hn hle hm
  rw [h] at hmono
  exact hmono.not_gt hlt

/-- Settles O21: the ends and the vectors by evaluation; between them the form is monotone. -/
theorem closedFormEndValues : Obligations.ClosedFormEndValues := by
  refine ⟨fun n hn => ⟨scaleClosed_zero n, scaleClosed_greatest hn⟩, fun a ha => ⟨fun h => ?_, ?_⟩,
    fun a ha => ⟨fun h => ?_, fun h => ?_⟩, ?_⟩
  · by_contra hne
    exact scaleClosed_ne_one (m := 2 ^ 21 - 2) (.inl rfl) (by omega) (by decide) (by decide +kernel) h
  · rintro rfl
    exact scaleClosed_greatest (.inl rfl)
  · by_contra hlt
    exact scaleClosed_ne_one (m := 2 ^ 53 - 3) (.inr (.inr rfl)) (by omega) (by decide) (by decide +kernel) h
  · obtain rfl | rfl : a = 2 ^ 53 - 2 ∨ a = 2 ^ 53 - 1 := by omega
    · decide +kernel
    · exact scaleClosed_greatest (.inr (.inr rfl))
  · decide +kernel

/-! ### No subnormal result -/

/-- A value of `2^52` units or more is normal. -/
theorem normal_of_units {b : BitVec 64} (h : 2 ^ 52 ≤ f64Units b) : 0x0010000000000000 ≤ b.toNat := by
  by_contra hlt
  have hexp : b.toNat / 2 ^ 52 % 2 ^ 11 = 0 := by omega
  rw [f64Units, f64Exp_eq, f64Frac_eq, if_pos hexp] at h
  omega

/-- A positive integer of at most 53 bits scaled by `2^-n` is far above the subnormals. -/
theorem rne_scaled_normal {a n : Nat} (hn : n ≤ 60) (ha : a < 2 ^ 53) (h0 : a ≠ 0) :
    0x0010000000000000 ≤ (rne a (2 ^ n)).toNat := by
  apply normal_of_units
  obtain ⟨S, hS, hscale⟩ := f64Scale_pow
  have hunits := f64Units_rne_scaled hn ha
  refine Nat.le_of_mul_le_mul_right (c := 2 ^ n) ?_ (by positivity)
  calc 2 ^ 52 * 2 ^ n = 2 ^ (52 + n) := (pow_add ..).symm
    _ ≤ 2 ^ S := Nat.pow_le_pow_right (by decide) (by clear hscale; omega)
    _ ≤ a * f64Scale := by rw [hscale]; exact Nat.le_mul_of_pos_left _ (Nat.pos_of_ne_zero h0)
    _ = f64Units (rne a (2 ^ n)) * 2 ^ n := hunits.symm

/-- The closed form of a positive `k` is at least that of 1, which is normal (R155, R185). -/
theorem scaleClosed_normal {a n : Nat} (hn : n = 21 ∨ n = 32 ∨ n = 53) (ha : a < 2 ^ n) (h0 : a ≠ 0) :
    0x0010000000000000 ≤ (scaleClosed (a, n)).toNat := by
  refine le_trans ?_ (closedFormIsMonotone n 1 a hn (Nat.pos_of_ne_zero h0) ha)
  rcases hn with rfl | rfl | rfl <;> decide +kernel

/-- Settles O55: a result is +0.0 or normal by its numerator, and at most 1.0 by its range. -/
theorem realOutputsAreZeroOrNormal : Obligations.RealOutputsAreZeroOrNormal := by
  intro k form r b hb
  have hbound (n : Nat) (h : n ≤ 53) : n ≤ 60 := h.trans (by decide)
  rcases hb with rfl | rfl | rfl
  · by_cases h0 : (realInput form 11 k r).1 = 0
    · left
      rw [resultClosed01, ← Prod.mk.eta (p := realInput form 11 k r), h0, scaleClosed_zero]
    · exact .inr ⟨scaleClosed_normal (realInput_bits form r) (realInput_lt form (by decide) r) h0,
        (resultClosed01_le_one form r).trans_lt (by decide)⟩
  · by_cases h0 : (realInput form 11 k r).1 = 0
    · left
      rw [resultHalfopen01_eq_rne, h0, rne_zero (by positivity)]
    · right
      refine ⟨?_, (resultHalfopen01_lt_one form r).trans (by decide)⟩
      rw [resultHalfopen01_eq_rne]
      exact rne_scaled_normal (hbound _ (realInput_snd_le form (by decide) r)) (realInput_fst_lt form (by decide) r) h0
  · right
    refine ⟨?_, (resultOpen01_bounds form r).2.trans (by decide)⟩
    rw [resultOpen01_eq_rne]
    exact rne_scaled_normal (hbound _ (Nat.succ_le_succ (realInput_snd_le form (by decide) r)))
      (openNumerator_lt form r) (by omega)

end Sys2Proof.Machine
end

section
/-! SUPPORT. Array seeding in closed form (spec R104, R105), the corner values of scalar seeding (R102), and the
obligations on them. -/

namespace Sys2Proof.Machine

open Sys2Proof.Rules

variable {k : Width}

/-! ### Corner values of the scalar fill -/

/-- `words[1]` after a scalar fill (R100). -/
theorem scalarFillWords_one (seed : Word k) (ws : StateVector k) :
    readWord (scalarFillWords seed ws) 1 = k.fSeed * seedMix seed + Word.ofNat k 1 := by
  obtain ⟨hfirst, hnext⟩ := scalarFillWords_spec seed ws
  rw [hnext 1 le_rfl (N_ge_two k), Nat.sub_self, hfirst]

/-- `words[2]` of the 32-bit instance after a scalar fill from 0 (R102). -/
theorem scalarFillWords_zero_two (ws : StateVector .w32) :
    readWord (scalarFillWords (0 : Word .w32) ws) 2 = 1812433255#32 := by
  have hone : readWord (scalarFillWords (0 : Word .w32) ws) 1 = 1#32 := (scalarFillWords_one _ ws).trans (by decide)
  rw [(scalarFillWords_spec _ ws).2 2 (by decide) (by decide), hone]
  decide

/-- The mix of the all-ones word clears its two lowest bits: `2^W - 4` (R102). -/
theorem seedMix_allOnes (k : Width) : seedMix (BitVec.allOnes k.bits) = BitVec.ofNat k.bits (2 ^ k.bits - 4) := by
  cases k <;> decide +kernel

/-- Settles O2: the first steps of the recurrence from the two seeds. -/
theorem scalarSeedCornerValues : Obligations.ScalarSeedCornerValues := by
  refine ⟨fun s => ?_, fun s => ?_⟩
  · obtain ⟨t, ht, he⟩ := exec_seedScalar 0 s
    have hseed : seedOperand s.port 0 = 0 := BitVec.setWidth_zero ..
    have hwords : (t.engine s.port).words = scalarFillWords 0 (s.engine s.port).words := by rw [he, hseed]; rfl
    have hone : readWord (t.engine s.port).words 1 = 1 := by
      rw [hwords]
      refine (scalarFillWords_one _ _).trans ?_
      cases s.port <;> decide
    refine ⟨t, ht, ?_, hone, fun hport => ?_⟩
    · rw [hwords]
      exact (scalarFillWords_spec _ _).1
    · obtain ⟨e32, e64, form, port, inputs⟩ := s
      subst hport
      have hwords32 : t.engine32.words = scalarFillWords (0 : Word .w32) e32.words := hwords
      rw [hwords32]
      exact scalarFillWords_zero_two e32.words
  · obtain ⟨t, ht, he⟩ := exec_seedScalar (BitVec.allOnes 64) s
    have hseed : seedOperand s.port (BitVec.allOnes 64) = BitVec.allOnes s.port.bits := by cases s.port <;> decide
    rw [hseed] at he
    refine ⟨t, ht, ?_, ?_⟩
    · rw [he]
      exact (scalarFillWords_spec _ _).1
    · rw [he, fSeed_eq, ← seedMix_allOnes]
      exact scalarFillWords_one _ _

/-! ### The indices of the key-mixing pass -/

/-- The key index cycles through 0 .. L-1 (R104). -/
theorem keyMixTrace_j (m : Memory k) {L : Nat} (hL : 1 ≤ L) (ws : StateVector k) (n : Nat) :
    (keyMixTrace m L ws n).j = n % L := by
  induction n with
  | zero => rw [Nat.zero_mod]; rfl
  | succ n ih =>
    have hlt := Nat.mod_lt n hL
    rw [keyMixTrace_succ, (keyMixStep_indices ..).2, ih, ← Nat.mod_add_mod n L 1]
    split
    · rw [show n % L + 1 = L by omega, Nat.mod_self]
    · rw [Nat.mod_eq_of_lt (show n % L + 1 < L by omega)]

/-- Settles O6: both indices run in cycles from 1 and from 0. -/
theorem keyMixPassEndIndices : Obligations.KeyMixPassEndIndices :=
  fun _ m L ws hL => ⟨keyMixPass_i m L ws, keyMixTrace_j m hL ws _⟩

/-! ### A sweep: the steps of a pass up to its wrap -/

/-- The word a pass writes at index `x`, from the old word there and the word before it. -/
abbrev PassWrite (k : Width) := Nat → Word k → Word k → Word k

/-- `w` takes the steps of a pass at the indices `a`, `a + 1`, .. `N - 1`, with the wrap at the end (R104, R105). -/
def Sweeps (g : PassWrite k) (a : Nat) (w : Nat → Nat → Word k) : Prop :=
  ∀ n, a + n < k.N → ∃ i', PassStep (a + n) i' (g (a + n) (w n (a + n)) (w n (a + n - 1))) (w n) (w (n + 1))

/-- Before the wrap, the words from `a` on that the pass has reached follow `g`, and the others are the old ones. -/
theorem Sweeps.before_wrap {g : PassWrite k} {a : Nat} {w : Nat → Nat → Word k} (h : Sweeps g a w) (ha : 1 ≤ a)
    (n : Nat) (hn : a + n < k.N) :
    (∀ x, x < k.N → x < a ∨ a + n ≤ x → w n x = w 0 x) ∧
    (∀ x, a ≤ x → x < a + n → w n x = g x (w 0 x) (w n (x - 1))) := by
  induction n with
  | zero => exact ⟨fun x _ _ => rfl, fun x h1 h2 => by omega⟩
  | succ n ih =>
    obtain ⟨hold, hnew⟩ := ih (by omega)
    obtain ⟨i', hwritten, hnowrap, -⟩ := h n (by omega)
    have hkept := (hnowrap (by omega)).2
    refine ⟨fun x hx hout => ?_, fun x h1 h2 => ?_⟩
    · rw [hkept x hx (by omega), hold x hx (by omega)]
    · rw [hkept (x - 1) (by omega) (by omega)]
      by_cases hxn : x = a + n
      · rw [hxn, hwritten, hold (a + n) (by omega) (.inr le_rfl)]
      · rw [hkept x (by omega) hxn, hnew x h1 (by omega)]

/-- The words of a whole sweep but for the copy the wrap makes into element 0. -/
def sweptWords (k : Width) (a : Nat) (w : Nat → Nat → Word k) (x : Nat) : Word k :=
  if x = 0 then w 0 0 else w (k.N - a) x

/-- After the wrap, every word from `a` on follows `g`, those between 0 and `a` are the old ones, and the last one has
been copied into element 0. -/
theorem Sweeps.whole {g : PassWrite k} {a : Nat} {w : Nat → Nat → Word k} (h : Sweeps g a w) (ha : 1 ≤ a)
    (haN : a < k.N) :
    w (k.N - a) 0 = w (k.N - a) (k.N - 1) ∧
    (∀ x, x < a → sweptWords k a w x = w 0 x) ∧
    (∀ x, a ≤ x → x < k.N → sweptWords k a w x = g x (w 0 x) (sweptWords k a w (x - 1))) := by
  obtain ⟨hold, hnew⟩ := h.before_wrap ha (k.N - 1 - a) (by omega)
  have hlast : a + (k.N - 1 - a) = k.N - 1 := by omega
  obtain ⟨i', hwritten, -, hwrap⟩ := h (k.N - 1 - a) (by omega)
  rw [hlast] at hwritten hwrap hold hnew
  rw [show k.N - 1 - a + 1 = k.N - a by omega] at hwritten hwrap
  obtain ⟨-, hcopy, hkept⟩ := hwrap (by omega)
  have hswept (x : Nat) (hx : x < k.N - 1) : sweptWords k a w x = w (k.N - 1 - a) x := by
    unfold sweptWords
    split
    · next h0 => rw [h0, hold 0 (by omega) (by omega)]
    · next h0 => exact hkept x (by omega) (by omega) h0
  refine ⟨hcopy, fun x hx => ?_, fun x h1 h2 => ?_⟩
  · rw [hswept x (by omega), hold x (by omega) (.inl hx)]
  · rw [hswept (x - 1) (by omega)]
    by_cases hxl : x = k.N - 1
    · rw [hxl, sweptWords, if_neg (by omega), hwritten, hold (k.N - 1) (by omega) (.inr le_rfl)]
    · rw [hswept x (by omega), hnew x h1 (by omega)]

/-- The step at index 1 that follows a sweep reads the last word, which the wrap has copied into element 0. -/
theorem Sweeps.then_first {g : PassWrite k} {a : Nat} {w : Nat → Nat → Word k} (h : Sweeps g a w) (ha : 1 ≤ a)
    (haN : a < k.N) {i' : Nat} {g' : Word k → Word k → Word k}
    (hstep : PassStep 1 i' (g' (w (k.N - a) 1) (w (k.N - a) 0)) (w (k.N - a)) (w (k.N - a + 1))) :
    w (k.N - a + 1) 0 = sweptWords k a w (k.N - 1) ∧
    w (k.N - a + 1) 1 = g' (sweptWords k a w 1) (sweptWords k a w (k.N - 1)) ∧
    ∀ x, 2 ≤ x → x < k.N → w (k.N - a + 1) x = sweptWords k a w x := by
  have hM := shiftDistance_bounds k
  obtain ⟨hcopy, -, -⟩ := h.whole ha haN
  obtain ⟨hwritten, hnowrap, -⟩ := hstep
  have hkept := (hnowrap (by omega)).2
  have hswept (x : Nat) (h0 : x ≠ 0) : sweptWords k a w x = w (k.N - a) x := if_neg h0
  rw [hswept 1 (by omega), hswept (k.N - 1) (by omega), ← hcopy]
  exact ⟨hkept 0 (by omega) (by omega), hwritten,
    fun x h2 hx => (hkept x hx (by omega)).trans (hswept x (by omega)).symm⟩

/-! ### The closed form of array seeding for short keys -/

/-- What the key-mixing pass writes at index `x` in its first `N - 1` steps (R104). -/
def keyMixSweepWrite (m : Memory k) (L : Nat) : PassWrite k := fun x old previous =>
  (old ^^^ (mix previous * bMix k)) + memRead m ((x - 1) % L) + BitVec.ofNat k.bits ((x - 1) % L)

/-- What the internal pass writes at index `x` (R105). -/
def internalSweepWrite (k : Width) : PassWrite k := fun x old previous =>
  (old ^^^ (mix previous * cMix k)) - BitVec.ofNat k.bits x

/-- The words of the key-mixing pass after `n` steps. -/
def keyMixWords (m : Memory k) (L : Nat) (ws : StateVector k) (n : Nat) : Nat → Word k :=
  readWord (keyMixTrace m L ws n).words

/-- The words of the internal pass after `n` steps, the key-mixing pass having taken `N`. -/
def internalWords (m : Memory k) (L : Nat) (ws : StateVector k) (n : Nat) : Nat → Word k :=
  readWord (internalTrace (keyMixTrace m L ws k.N) n).words

section

variable (m : Memory k) {L : Nat} (hL : 1 ≤ L) (ws : StateVector k)

include hL

/-- A step of the key-mixing pass, its indices as numbers (R104). -/
theorem keyMixWords_step {n : Nat} (hn : n < max k.N L) : ∃ i', PassStep (1 + n % (k.N - 1)) i'
    ((keyMixWords m L ws n (1 + n % (k.N - 1)) ^^^ (mix (keyMixWords m L ws n (1 + n % (k.N - 1) - 1)) * bMix k))
      + memRead m (n % L) + BitVec.ofNat k.bits (n % L))
    (keyMixWords m L ws n) (keyMixWords m L ws (n + 1)) := by
  obtain ⟨-, -, hsteps⟩ := keyMixTrace_keyMixed m L ws
  have hstep := (hsteps n hn).1
  simp only [keyMixTrace_i, keyMixTrace_j m hL] at hstep
  exact ⟨_, hstep⟩

/-- The first `N - 1` key-mixing steps are a sweep from index 1 (R104). -/
theorem keyMixWords_sweeps : Sweeps (keyMixSweepWrite m L) 1 (keyMixWords m L ws) := by
  intro n hn
  obtain ⟨i', hstep⟩ := keyMixWords_step m hL ws (n := n) (lt_max_of_lt_left (by omega))
  rw [Nat.mod_eq_of_lt (show n < k.N - 1 by omega)] at hstep
  exact ⟨i', by simpa only [keyMixSweepWrite, Nat.add_sub_cancel_left] using hstep⟩

/-- The words after `N` key-mixing steps: those of the sweep, element 1 written once more (R104). -/
theorem keyMixWords_N :
    keyMixWords m L ws k.N 0 = sweptWords k 1 (keyMixWords m L ws) (k.N - 1) ∧
    keyMixWords m L ws k.N 1
      = (sweptWords k 1 (keyMixWords m L ws) 1 ^^^ (mix (sweptWords k 1 (keyMixWords m L ws) (k.N - 1)) * bMix k))
        + memRead m ((k.N - 1) % L) + BitVec.ofNat k.bits ((k.N - 1) % L) ∧
    ∀ x, 2 ≤ x → x < k.N → keyMixWords m L ws k.N x = sweptWords k 1 (keyMixWords m L ws) x := by
  have hN := N_ge_two k
  obtain ⟨i', hstep⟩ := keyMixWords_step m hL ws (n := k.N - 1) (lt_max_of_lt_left (by omega))
  rw [Nat.mod_self] at hstep
  have hfirst := (keyMixWords_sweeps m hL ws).then_first le_rfl (by omega)
    (g' := fun old previous => (old ^^^ (mix previous * bMix k)) + memRead m ((k.N - 1) % L)
      + BitVec.ofNat k.bits ((k.N - 1) % L)) hstep
  rwa [Nat.sub_add_cancel k.N_pos] at hfirst

end

section

variable (m : Memory k) (L : Nat) (ws : StateVector k)

/-- A step of the internal pass, its index as a number (R105). -/
theorem internalWords_step {n : Nat} (hn : n < k.N - 1) : ∃ i', PassStep (1 + (k.N + n) % (k.N - 1)) i'
    (internalSweepWrite k (1 + (k.N + n) % (k.N - 1)) (internalWords m L ws n (1 + (k.N + n) % (k.N - 1)))
      (internalWords m L ws n (1 + (k.N + n) % (k.N - 1) - 1)))
    (internalWords m L ws n) (internalWords m L ws (n + 1)) := by
  have hstep := internalTrace_internallyMixed (keyMixTrace_i m L ws k.N) n hn
  simp only [internalTrace_i (keyMixTrace_i m L ws k.N)] at hstep
  exact ⟨_, hstep⟩

/-- The first `N - 2` internal steps are a sweep from index 2 (R105). -/
theorem internalWords_sweeps : Sweeps (internalSweepWrite k) 2 (internalWords m L ws) := by
  intro n hn
  obtain ⟨i', hstep⟩ := internalWords_step m L ws (n := n) (by omega)
  rw [show k.N + n = n + 1 + (k.N - 1) by omega, Nat.add_mod_right, Nat.mod_eq_of_lt (by omega),
    show 1 + (n + 1) = 2 + n by omega] at hstep
  exact ⟨i', hstep⟩

/-- The words after the internal pass: those of the sweep, element 1 written last (R105). -/
theorem internalWords_end :
    internalWords m L ws (k.N - 1) 1
      = internalSweepWrite k 1 (sweptWords k 2 (internalWords m L ws) 1)
          (sweptWords k 2 (internalWords m L ws) (k.N - 1)) ∧
    ∀ x, 2 ≤ x → x < k.N → internalWords m L ws (k.N - 1) x = sweptWords k 2 (internalWords m L ws) x := by
  have hN : 2 < k.N := by cases k <;> decide
  obtain ⟨i', hstep⟩ := internalWords_step m L ws (n := k.N - 2) (by omega)
  rw [show k.N + (k.N - 2) = k.N - 1 + (k.N - 1) by omega, Nat.add_mod_right, Nat.mod_self] at hstep
  have hfirst := (internalWords_sweeps m L ws).then_first (by decide) hN (g' := internalSweepWrite k 1) hstep
  rw [show k.N - 2 + 1 = k.N - 1 by omega] at hfirst
  exact hfirst.2

end

/-- For `L ≤ N` the key-mixing pass takes `N` steps: every word but element 0 is that of the internal pass after it. -/
theorem arrayFillWords_eq_internalWords (m : Memory k) {L : Nat} (hLN : L ≤ k.N) (ws : StateVector k) {x : Nat}
    (h0 : 0 < x) (hx : x < k.N) : readWord (arrayFillWords m L ws) x = internalWords m L ws (k.N - 1) x := by
  rw [arrayFillWords_of_pos m L ws h0 hx, internalPass_eq_trace, internalWords,
    show keyMixPass m L ws = keyMixTrace m L ws (max k.N L) from rfl, Nat.max_eq_left hLN]

/-- Settles O5: `b`, `p` and `m` are the words before the key-mixing pass, after its sweep, and after its last step. -/
theorem seedArrayShortKeysClosedForm : Obligations.SeedArrayShortKeysClosedForm := by
  intro s arg h1 hLN hmax
  have hN : 2 < s.port.N := by cases s.port <;> decide
  obtain ⟨t, ht, he⟩ := exec_seedArray_accepted s arg h1 hmax
  generalize hmem : (s.engine s.port).kmem = mem
  generalize hws : (s.engine s.port).words = ws
  have hwords : (t.engine s.port).words = arrayFillWords mem arg.toNat ws := by rw [he, ← hmem, ← hws]; rfl
  have hread {x : Nat} (h0 : 0 < x) (hx : x < s.port.N) : readWord (t.engine s.port).words x
      = internalWords mem arg.toNat ws (s.port.N - 1) x := by
    rw [hwords, arrayFillWords_eq_internalWords mem hLN ws h0 hx]
  obtain ⟨-, -, hp⟩ := (keyMixWords_sweeps mem h1 ws).whole le_rfl (by omega)
  obtain ⟨hm0, hm1, hm⟩ := keyMixWords_N mem h1 ws
  obtain ⟨-, hfirst, hsweep⟩ := (internalWords_sweeps mem arg.toNat ws).whole (by decide) hN
  obtain ⟨hend1, hend⟩ := internalWords_end mem arg.toNat ws
  have hlast {x : Nat} (h2 : 2 ≤ x) (hx : x < s.port.N) : sweptWords s.port 2 (internalWords mem arg.toNat ws) x
      = readWord (t.engine s.port).words x := by rw [hread (by omega) hx, hend x h2 hx]
  refine ⟨t, keyMixWords mem arg.toNat ws 0, sweptWords s.port 1 (keyMixWords mem arg.toNat ws),
    keyMixWords mem arg.toNat ws s.port.N, ht, ?_, rfl, hp, hm0, by rw [hm0]; exact hm1, hm, ?_, ?_,
    fun i h3 hi => ?_, ?_⟩
  · rw [arrayBaseSeed_eq]
    exact scalarFillWords_scalarSeeded _ _
  · rw [hwords, arrayFillWords_zero, msbForce_eq]
  · rw [← hlast le_rfl hN, hsweep 2 le_rfl hN, hfirst 1 (by decide)]
    rfl
  · rw [← hlast (by omega) hi, hsweep i (by omega) hi, hlast (by omega) (by omega)]
    rfl
  · rw [hread Nat.one_pos (by omega), hend1, hfirst 1 (by decide), hlast (by omega) (by omega)]
    rfl

end Sys2Proof.Machine
end

section
/-! SUPPORT. What the twist does not read (spec R134), `temper` as a linear map (R150), the output commands as one
stream (R131, R137, R151, R157, R160), and the obligations on them. -/

namespace Sys2Proof.Machine

open Sys2Proof.Rules

variable {k : Width}

/-! ### The first word of a twist -/

/-- The split reads only the bits above `R_LOW` of its first word (R134). -/
theorem twistJoin_congr_high {hi hi' : Word k} (lo : Word k) (h : hi >>> rLow = hi' >>> rLow) :
    twistJoin hi lo = twistJoin hi' lo := by
  rw [← joined_eq_twistJoin, ← joined_eq_twistJoin, joined, joined, h]

/-- Settles O13: only step 0 reads the old `words[0]`, and only through the split; every other word read is an equal old
one or a new one of a smaller index. -/
theorem twistIgnoresLowBitsOfFirstWord : Obligations.TwistIgnoresLowBitsOfFirstWord := by
  intro k u v hhigh hrest
  obtain ⟨hM, hMN⟩ := shiftDistance_bounds k
  refine words_ext fun i hi => ?_
  induction i using Nat.strongRecOn with
  | ind i ih =>
    have hsource : (if i < k.N - k.M then readWord u (i + k.M) else readWord (twistWords u) (i + k.M - k.N))
        = if i < k.N - k.M then readWord v (i + k.M) else readWord (twistWords v) (i + k.M - k.N) := by
      split
      · exact hrest _ (by omega) (by omega)
      · exact ih _ (by omega) (by omega)
    have hnext : (if i + 1 < k.N then readWord u (i + 1) else readWord (twistWords u) 0)
        = if i + 1 < k.N then readWord v (i + 1) else readWord (twistWords v) 0 := by
      split
      · exact hrest _ (by omega) ‹_›
      · exact ih 0 (by omega) (by omega)
    have hword : readWord u i >>> rLow = readWord v i >>> rLow := by
      rcases Nat.eq_zero_or_pos i with rfl | hpos
      · exact hhigh
      · rw [hrest i hpos hi]
    rw [twistWords_spec u i hi, twistWords_spec v i hi, hsource, hnext, twistJoin_congr_high _ hword]

/-! ### `temper` -/

theorem xor_and_distrib {w : Nat} (a b m : BitVec w) : (a ^^^ b) &&& m = (a &&& m) ^^^ (b &&& m) := by
  ext i hi
  simp [Bool.and_xor_distrib_right]

/-- An XOR with a masked linear function of the word itself is linear. -/
theorem xor_masked_linear {w : Nat} {g : BitVec w → BitVec w} (hg : ∀ a b, g (a ^^^ b) = g a ^^^ g b)
    (m a b : BitVec w) : (a ^^^ b) ^^^ (g (a ^^^ b) &&& m) = (a ^^^ (g a &&& m)) ^^^ (b ^^^ (g b &&& m)) := by
  rw [hg, xor_and_distrib]
  ac_rfl

theorem temperU_xor (y z : Word k) : temperU (y ^^^ z) = temperU y ^^^ temperU z :=
  xor_masked_linear (g := (· >>> k.tU)) (fun _ _ => BitVec.ushiftRight_xor_distrib ..) k.tD y z

theorem temperS_xor (y z : Word k) : temperS (y ^^^ z) = temperS y ^^^ temperS z :=
  xor_masked_linear (g := (· <<< k.tS)) (fun _ _ => BitVec.shiftLeft_xor_distrib ..) k.tB y z

theorem temperT_xor (y z : Word k) : temperT (y ^^^ z) = temperT y ^^^ temperT z :=
  xor_masked_linear (g := (· <<< k.tT)) (fun _ _ => BitVec.shiftLeft_xor_distrib ..) k.tC y z

theorem temperL_xor (y z : Word k) : temperL (y ^^^ z) = temperL y ^^^ temperL z := by
  simp only [temperL, BitVec.ushiftRight_xor_distrib]
  ac_rfl

/-- `temper` is linear over GF(2), as its four lines are (R150). -/
theorem temper_xor (y z : Word k) : temper (y ^^^ z) = temper y ^^^ temper z := by
  simp only [temper, temperU_xor, temperS_xor, temperT_xor, temperL_xor]

/-- Settles O27: each line is one-to-one and linear. -/
theorem temperIsBijectiveAndLinear : Obligations.TemperIsBijectiveAndLinear :=
  fun k => ⟨⟨temper_injective k, temper_surjective k⟩, temper_xor⟩

/-- Settles O26: the lines by definition, the examples by evaluation. -/
theorem temperFollowsFourLines : Obligations.TemperFollowsFourLines := by
  refine ⟨fun y => rfl, fun y => rfl, ?_⟩
  decide +kernel

/-! ### One output command -/

/-- Settles O15: every output command is `output` of its result function. -/
theorem outputCommandsExtractOneWord : Obligations.OutputCommandsExtractOneWord := by
  intro s i hi
  obtain ⟨f, hf⟩ := exec_output i hi
  obtain ⟨t, ht, heffect, -⟩ := exec_output_result (f s.real32Form) (hf s)
  exact ⟨t, ht, heffect⟩

/-- Settles O18: the result function of the raw value taken, its input by the form of R154 or R157. -/
theorem nextRealClosed01MultipliesByReciprocal : Obligations.NextRealClosed01MultipliesByReciprocal := by
  intro s arg
  obtain ⟨t, ht, heffect, -, hdata⟩ := exec_output_result (i := .nextRealClosed01) (s := s)
    (fun _ => resultClosed01 s.real32Form) rfl
  have hforms := scale_realInput_forms scaleClosed hdata
  rw [BitVec.toNat_ushiftRight, Nat.shiftRight_eq_div_pow] at hforms
  exact ⟨rfl, t, ht, heffect, hforms⟩

/-- The result functions that `REAL32_FORM` does not reach (R157). -/
theorem resultOf_form_irrelevant {i : Instr} (h : k = .w64 ∨ i = .nextRaw ∨ i = .nextSigned ∨ i.isOutput = false)
    (form form' : Real32Form) : (resultOf form i : Word k → BitVec 64) = resultOf form' i := by
  rcases h with rfl | rfl | rfl | h
  · cases i <;> rfl
  · rfl
  · rfl
  · cases i with
    | seedScalar arg | seedArray arg => rfl
    | nextRaw | nextSigned | nextRealClosed01 | nextRealHalfopen01 | nextRealOpen01 => cases h

/-- A command reads `REAL32_FORM` in its result function alone (R157). -/
theorem commandEffect_form_irrelevant {i : Instr} (h : k = .w64 ∨ i = .nextRaw ∨ i = .nextSigned ∨ i.isOutput = false)
    (form form' : Real32Form) (e : Engine k) : commandEffect form i e = commandEffect form' i e := by
  cases hout : i.isOutput with
  | false =>
    cases i with
    | seedScalar arg | seedArray arg => rfl
    | nextRaw | nextSigned | nextRealClosed01 | nextRealHalfopen01 | nextRealOpen01 => cases hout
  | true => rw [commandEffect_output hout, commandEffect_output hout, resultOf_form_irrelevant h form form']

/-- The parameter and an instance are changed independently. -/
theorem setEngine_with_form (s : State) (form : Real32Form) (e : Engine k) :
    ({ s with real32Form := form } : State).setEngine k e = { s.setEngine k e with real32Form := form } := by
  cases k <;> rfl

theorem engine_with_form (s : State) (form : Real32Form) (k : Width) :
    ({ s with real32Form := form } : State).engine k = s.engine k := by cases k <;> rfl

/-- Settles O30: the effect on the port in use is the same, and nothing else is touched. -/
theorem real32FormAffectsOnly32BitReals : Obligations.Real32FormAffectsOnly32BitReals := by
  intro s form i h
  refine ⟨_, exec_eq i s, ?_⟩
  rw [exec_eq, State.onPort, engine_with_form, setEngine_with_form,
    commandEffect_form_irrelevant h form s.real32Form]
  rfl

/-! ### Sequences of commands on one instance -/

/-- What a list of commands makes of an instance, performed in order (R58). -/
def commandEffects (form : Real32Form) (cmds : List Instr) (e : Engine k) : Engine k :=
  cmds.foldl (fun e i => commandEffect form i e) e

/-- The responses of an instance to a list of commands, in order (R58, R72). -/
def commandResponses (form : Real32Form) : List Instr → Engine k → List (BitVec 64 × BitVec 2)
  | [], _ => []
  | i :: rest, e => ((commandEffect form i e).rspData, (commandEffect form i e).rspStatus) ::
      commandResponses form rest (commandEffect form i e)

theorem commandResponses_length (form : Real32Form) (cmds : List Instr) (e : Engine k) :
    (commandResponses form cmds e).length = cmds.length := by
  induction cmds generalizing e with
  | nil => rfl
  | cons i rest ih => rw [commandResponses, List.length_cons, ih, List.length_cons]

/-- A command on port `k` is its effect on the instance of width `k`; the port and the parameter stay. -/
theorem exec_on_port {s : State} (hport : s.port = k) (i : Instr) : ∃ t, exec i s = .next t ∧ t.port = k ∧
    t.real32Form = s.real32Form ∧ t.engine k = commandEffect s.real32Form i (s.engine k) := by
  subst hport
  exact ⟨_, exec_eq i s, onPort_port .., onPort_real32Form .., onPort_engine_port ..⟩

theorem portResponse_eq {s : State} (hport : s.port = k) :
    portResponse s = ((s.engine k).rspData, (s.engine k).rspStatus) := by
  subst hport
  rfl

theorem execAll_eq_commandEffects (cmds : List Instr) {s : State} (hport : s.port = k) : ∃ t, execAll cmds s = some t ∧
    t.port = k ∧ t.real32Form = s.real32Form ∧ t.engine k = commandEffects s.real32Form cmds (s.engine k) := by
  induction cmds generalizing s with
  | nil => exact ⟨s, rfl, hport, rfl, rfl⟩
  | cons i rest ih =>
    obtain ⟨u, hu, huport, huform, hengine⟩ := exec_on_port hport i
    obtain ⟨t, ht, htport, htform, htengine⟩ := ih huport
    refine ⟨t, ?_, htport, htform.trans huform, ?_⟩
    · rw [execAll, hu]
      exact ht
    · rw [htengine, huform, hengine]
      rfl

theorem execResponses_eq_commandResponses (cmds : List Instr) {s : State} (hport : s.port = k) :
    execResponses cmds s = commandResponses s.real32Form cmds (s.engine k) := by
  induction cmds generalizing s with
  | nil => rfl
  | cons i rest ih =>
    obtain ⟨u, hu, huport, huform, hengine⟩ := exec_on_port hport i
    rw [execResponses, hu, commandResponses, ← hengine, ← huform, ← portResponse_eq huport, ← ih huport]

/-! ### Where the twists of a stream are -/

/-- The cursor of a batch moves in a cycle of `N` (R135, R137). -/
theorem batch_cursor_succ {c c' : Nat} (h : (c < k.N ∧ c' = c + 1) ∨ (k.N ≤ c ∧ c' = 1)) (h1 : 1 ≤ c) (hN : c ≤ k.N)
    (n : Nat) : (c' - 1 + n) % k.N = (c - 1 + (n + 1)) % k.N := by
  rcases h with ⟨hlt, rfl⟩ | ⟨hge, rfl⟩
  · congr 1
    omega
  · rw [show c - 1 + (n + 1) = 1 - 1 + n + k.N by omega, Nat.add_mod_right]

/-- Output commands move the cursor through 1 .. N in a cycle (R137). -/
theorem commandEffects_outputs_cursor (form : Real32Form) {outs : List Instr}
    (houts : ∀ i, i ∈ outs → i.isOutput = true) {e : Engine k} (h1 : 1 ≤ e.cursor.toNat) (hN : e.cursor.toNat ≤ k.N) :
    (commandEffects form outs e).cursor.toNat = (e.cursor.toNat - 1 + outs.length) % k.N + 1 := by
  induction outs generalizing e with
  | nil =>
    rw [List.length_nil, Nat.add_zero, Nat.mod_eq_of_lt (by omega), Nat.sub_add_cancel h1]
    rfl
  | cons i rest ih =>
    have hcursor := output_cursor_cases (resultOf form i) e
    rw [← commandEffect_output (houts i List.mem_cons_self)] at hcursor
    have hlow : 1 ≤ (commandEffect form i e).cursor.toNat := by omega
    have hhigh : (commandEffect form i e).cursor.toNat ≤ k.N := by omega
    rw [List.length_cons, ← batch_cursor_succ hcursor h1 hN]
    exact ih (fun j hj => houts j (List.mem_cons_of_mem _ hj)) hlow hhigh

/-- Settles O14: from `N` the cursor enters its cycle at 1, and is back at `N` after every `N` commands. -/
theorem twistPositionsInStream : Obligations.TwistPositionsInStream := by
  intro s outs hexhausted houts
  obtain ⟨t, ht, hport, -, hengine⟩ := execAll_eq_commandEffects outs (rfl : s.port = s.port)
  have hN := N_ge_two s.port
  have hcursor := commandEffects_outputs_cursor s.real32Form houts (e := s.engine s.port) (by omega) hexhausted.le
  rw [← hengine, hexhausted] at hcursor
  refine ⟨t, ht, hport, fun hne => ?_, ?_⟩
  · have hpos := List.length_pos_iff.2 hne
    rw [hcursor, show s.port.N - 1 + outs.length = outs.length - 1 + s.port.N by omega, Nat.add_mod_right]
  · rw [hcursor]
    cases s.port <;> simp only [Width.N] <;> omega

/-! ### One stream, whichever outputs are asked for -/

/-- The last response data plays no part in an output command (R151). -/
theorem output_with_rspData (f : Word k → BitVec 64) (e : Engine k) (d : BitVec 64) :
    output f { e with rspData := d } = output f e := by
  have htwist : twistIfExhausted { e with rspData := d } = { twistIfExhausted e with rspData := d } := by
    unfold twistIfExhausted
    split
    · by_cases h : e.initialized = true
      · rw [if_pos h, if_pos h]
        rfl
      · rw [if_neg h, if_neg h]
        rfl
    · rfl
  rw [output, htwist]
  rfl

/-- Output commands in two sequences of one length make the same of two instances that differ in the last response data
alone, but for that data (R160). -/
theorem commandEffects_outputs_congr (form : Real32Form) {as bs : List Instr} (hlen : as.length = bs.length)
    (has : ∀ i, i ∈ as → i.isOutput = true) (hbs : ∀ i, i ∈ bs → i.isOutput = true) (e : Engine k) (d : BitVec 64) :
    ∃ d', commandEffects form bs { e with rspData := d } = { commandEffects form as e with rspData := d' } := by
  induction as generalizing bs e d with
  | nil =>
    obtain rfl : bs = [] := List.length_eq_zero_iff.1 hlen.symm
    exact ⟨d, rfl⟩
  | cons a as ih =>
    obtain ⟨b, bs, rfl⟩ := List.exists_cons_of_length_eq_add_one hlen.symm
    obtain ⟨d', h⟩ := ih (Nat.succ.inj hlen) (fun i hi => has i (List.mem_cons_of_mem _ hi))
      (fun i hi => hbs i (List.mem_cons_of_mem _ hi)) (commandEffect form a e)
      (resultOf form b (currentWord (twistIfExhausted e)))
    refine ⟨d', ?_⟩
    have hb : commandEffect form b { e with rspData := d }
        = { commandEffect form a e with rspData := resultOf form b (currentWord (twistIfExhausted e)) } := by
      rw [commandEffect_output (hbs b List.mem_cons_self), commandEffect_output (has a List.mem_cons_self),
        output_with_rspData]
      rfl
    rw [← hb] at h
    exact h

/-- Settles O28: after both sequences the instances differ in the last response data alone, which no output reads. -/
theorem outputCommandsShareOneStream : Obligations.OutputCommandsShareOneStream := by
  intro s as bs hlen has hbs
  obtain ⟨t, ht, htport, htform, htengine⟩ := execAll_eq_commandEffects as (rfl : s.port = s.port)
  obtain ⟨u, hu, huport, huform, huengine⟩ := execAll_eq_commandEffects bs (rfl : s.port = s.port)
  obtain ⟨d, hd⟩ := commandEffects_outputs_congr s.real32Form hlen has hbs (s.engine s.port) (s.engine s.port).rspData
  have hengine : u.engine s.port = { t.engine s.port with rspData := d } := by rw [htengine, huengine, ← hd]
  refine ⟨t, u, ht, hu, htport, huport, by rw [hengine], fun c t' u' hc ht' hu' => ?_⟩
  obtain ⟨t₁, ht₁, -, -, ht₁engine⟩ := exec_on_port htport c
  obtain ⟨u₁, hu₁, -, -, hu₁engine⟩ := exec_on_port huport c
  obtain rfl : t₁ = t' := Host.Outcome.next.inj (ht₁.symm.trans ht')
  obtain rfl : u₁ = u' := Host.Outcome.next.inj (hu₁.symm.trans hu')
  rw [ht₁engine, hu₁engine, htform, huform, commandEffect_output hc, commandEffect_output hc, hengine]
  exact congrArg Engine.rspData (output_with_rspData _ (t.engine s.port) d).symm

end Sys2Proof.Machine
end

section
/-! SUPPORT. What an accepted seeding forgets (spec R51, R103, R109), instances that go on alike, the lazy default
seeding (R108, R208), and the obligations on them. -/

namespace Sys2Proof.Machine

open Sys2Proof.Rules

variable {k : Width}

/-! ### Array seeding reads no key at or above `L` -/

/-- The key-mixing pass reads only keys below `L`, since its key index stays below `L` (R51, R104). -/
theorem keyMixTrace_congr_keys {m m' : Memory k} {L : Nat} (hL : 1 ≤ L) (h : ∀ j, j < L → memRead m j = memRead m' j)
    (ws : StateVector k) (n : Nat) : keyMixTrace m L ws n = keyMixTrace m' L ws n := by
  induction n with
  | zero => rfl
  | succ n ih =>
    have hj : (keyMixTrace m' L ws n).j < L := by
      rw [keyMixTrace_j m' hL]
      exact Nat.mod_lt n hL
    rw [keyMixTrace_succ, keyMixTrace_succ, ih, keyMixStep, keyMixStep, keyMixWrite, keyMixWrite, h _ hj]

/-- The words of `array_fill(L)` depend on the keys below `L` alone (R51, R103, R109). -/
theorem arrayFillWords_congr_keys {m m' : Memory k} {L : Nat} (hL : 1 ≤ L)
    (h : ∀ j, j < L → memRead m j = memRead m' j) (ws ws' : StateVector k) :
    arrayFillWords m L ws = arrayFillWords m' L ws' := by
  have hpass : keyMixPass m L ws = keyMixPass m' L ws := keyMixTrace_congr_keys hL h ws _
  rw [arrayFillWords_congr m' L ws' ws, arrayFillWords, arrayFillWords, hpass]

/-- SEED_ARRAY with a length in range, as an effect on one instance (R103). -/
theorem commandEffect_seedArray_accepted (form : Real32Form) {arg : Word k} {e : Engine k} (h1 : 1 ≤ arg.toNat)
    (hmax : arg.toNat ≤ keyLenMax e.kmem) :
    commandEffect form (.seedArray (arg.setWidth 64)) e = complete 0 (arrayFill arg.toNat e) := by
  rw [commandEffect, keyCount, argWord, setWidth_argument]
  rcases seedArray_cases arg.toNat e with ⟨h, -⟩ | ⟨h, -⟩ | ⟨-, -, h⟩
  · omega
  · omega
  · exact h

/-- An accepted seeding makes the same words of the two instances: SEED_SCALAR, or SEED_ARRAY with keys equal below its
length (R103, R109). -/
theorem seeding_same_words {seed : Instr} {e e' : Engine k} (h : (∃ arg, seed = .seedScalar arg) ∨
      ∃ arg : Word k, seed = .seedArray (arg.setWidth 64) ∧ 1 ≤ arg.toNat ∧ arg.toNat ≤ keyLenMax e.kmem ∧
        arg.toNat ≤ keyLenMax e'.kmem ∧ ∀ j, j < arg.toNat → memRead e.kmem j = memRead e'.kmem j)
    (form form' : Real32Form) : ∃ ws, commandEffect form seed e = complete 0 (seeded ws e) ∧
      commandEffect form' seed e' = complete 0 (seeded ws e') := by
  rcases h with ⟨arg, rfl⟩ | ⟨arg, rfl, h1, hmax, hmax', hkeys⟩
  · refine ⟨_, rfl, ?_⟩
    rw [scalarFillWords_congr _ e.words e'.words]
    rfl
  · refine ⟨_, commandEffect_seedArray_accepted form h1 hmax, ?_⟩
    rw [commandEffect_seedArray_accepted form' h1 hmax', arrayFillWords_congr_keys h1 hkeys e.words e'.words]
    rfl

/-- Settles O8: both seedings make the same words of the two instances, and a seeded instance has cursor `N`. -/
theorem seedingForgetsPriorState : Obligations.SeedingForgetsPriorState := by
  intro s₁ s₂ hport
  have hseeding {seed : Instr} (hws : ∃ ws, commandEffect s₁.real32Form seed (s₁.engine s₁.port)
        = complete 0 (seeded ws (s₁.engine s₁.port)) ∧
      commandEffect s₂.real32Form seed (s₂.engine s₁.port) = complete 0 (seeded ws (s₂.engine s₁.port))) :
      ∃ t₁ t₂, exec seed s₁ = .next t₁ ∧ exec seed s₂ = .next t₂ ∧
        (∀ i, readWord (t₁.engine s₁.port).words i = readWord (t₂.engine s₁.port).words i) ∧
        (t₁.engine s₁.port).cursor = (t₂.engine s₁.port).cursor ∧
        (t₁.engine s₁.port).initialized = (t₂.engine s₁.port).initialized := by
    obtain ⟨ws, hws₁, hws₂⟩ := hws
    obtain ⟨t₁, ht₁, -, -, he₁⟩ := exec_on_port (rfl : s₁.port = s₁.port) seed
    obtain ⟨t₂, ht₂, -, -, he₂⟩ := exec_on_port hport.symm seed
    refine ⟨t₁, t₂, ht₁, ht₂, ?_⟩
    rw [he₁, he₂, hws₁, hws₂]
    exact ⟨fun _ => rfl, rfl, rfl⟩
  exact ⟨fun arg => hseeding (seeding_same_words (.inl ⟨arg, rfl⟩) _ _), fun arg h1 hmax₁ hmax₂ hkeys =>
    hseeding (seeding_same_words (.inr ⟨arg, rfl, h1, hmax₁, hmax₂, hkeys⟩) _ _)⟩

/-! ### Instances that go on alike -/

/-- Two instances that no command other than SEED_ARRAY tells apart: `cursor` and `initialized` agree, and so do the
words, unless the next output seeds them first (R108, R208). -/
structure SameStream (e e' : Engine k) : Prop where
  cursor : e.cursor = e'.cursor
  initialized : e.initialized = e'.initialized
  words : e.words = e'.words ∨ (e.initialized = false ∧ k.N ≤ e.cursor.toNat)

/-- After the twist trigger their words agree, for the lazy default seeding reads none (R108). -/
theorem SameStream.twistIfExhausted {e e' : Engine k} (h : SameStream e e') :
    (twistIfExhausted e).words = (twistIfExhausted e').words ∧
    (twistIfExhausted e).cursor = (twistIfExhausted e').cursor ∧
    (twistIfExhausted e).initialized = (twistIfExhausted e').initialized := by
  obtain ⟨hcursor, hinit, hwords⟩ := h
  rcases twistIfExhausted_cases e with ⟨hlt, he⟩ | ⟨hge, hi, he⟩ | ⟨hge, hi, he⟩
  · have he' : Machine.twistIfExhausted e' = e' := if_neg (by rw [← hcursor]; omega)
    rw [he, he']
    exact ⟨hwords.resolve_right fun h => hlt.not_ge h.2, hcursor, hinit⟩
  · have he' : Machine.twistIfExhausted e' = twist e' := by
      rw [Machine.twistIfExhausted, ← hcursor, ← hinit, if_pos hge, if_pos hi]
    rw [he, he']
    exact ⟨congrArg twistWords (hwords.resolve_right fun h => by simp [hi] at h), rfl, hinit⟩
  · have he' : Machine.twistIfExhausted e' = twist (defaultSeeding e') := by
      rw [Machine.twistIfExhausted, ← hcursor, ← hinit, if_pos hge, if_neg (by simp [hi])]
    rw [he, he']
    exact ⟨congrArg twistWords (scalarFillWords_congr ..), rfl, rfl⟩

/-- The same words, whatever was there before. -/
theorem sameStream_seeded (ws : StateVector k) (e e' : Engine k) :
    SameStream (complete 0 (seeded ws e)) (complete 0 (seeded ws e')) := ⟨rfl, rfl, .inl rfl⟩

/-- Any words, where the next output seeds them first (R208). -/
theorem sameStream_unseeded (ws : StateVector k) {e : Engine k} (hinit : e.initialized = false)
    (hcursor : k.N ≤ e.cursor.toNat) : SameStream { e with words := ws } e := ⟨rfl, rfl, .inr ⟨hinit, hcursor⟩⟩

/-- A command keeps two such instances alike and gets the same response from both; a SEED_ARRAY does when their key
memories are equal. -/
theorem SameStream.commandEffect {e e' : Engine k} (h : SameStream e e') (form : Real32Form) {i : Instr}
    (hkeys : e.kmem = e'.kmem ∨ ∀ arg, i ≠ .seedArray arg) :
    SameStream (commandEffect form i e) (commandEffect form i e') ∧
    (commandEffect form i e).rspData = (commandEffect form i e').rspData ∧
    (commandEffect form i e).rspStatus = (commandEffect form i e').rspStatus := by
  cases hout : i.isOutput with
  | true =>
    obtain ⟨hwords, hcursor, hinit⟩ := h.twistIfExhausted
    rw [commandEffect_output hout, commandEffect_output hout]
    refine ⟨⟨congrArg (· + 1) hcursor, hinit, .inl hwords⟩, ?_, rfl⟩
    exact congrArg (resultOf form i) (by rw [currentWord, currentWord, hwords, hcursor])
  | false =>
    cases i with
    | seedScalar arg =>
      obtain ⟨ws, he, he'⟩ := seeding_same_words (e := e) (e' := e') (.inl ⟨arg, rfl⟩) form form
      rw [he, he']
      exact ⟨sameStream_seeded .., rfl, rfl⟩
    | seedArray arg =>
      have hkmem : e.kmem = e'.kmem := hkeys.resolve_right fun h => h arg rfl
      simp only [Machine.commandEffect, seedArray, ← hkmem]
      split
      · exact ⟨⟨h.cursor, h.initialized, h.words⟩, rfl, rfl⟩
      · split
        · exact ⟨⟨h.cursor, h.initialized, h.words⟩, rfl, rfl⟩
        · rw [arrayFill, arrayFill, ← hkmem, arrayFillWords_congr _ _ e.words e'.words]
          exact ⟨sameStream_seeded .., rfl, rfl⟩
    | nextRaw | nextSigned | nextRealClosed01 | nextRealHalfopen01 | nextRealOpen01 => cases hout

/-- Two such instances answer every list of commands alike: with equal key memories, or without SEED_ARRAY. -/
theorem SameStream.commandResponses {e e' : Engine k} (h : SameStream e e') (form : Real32Form) {cmds : List Instr}
    (hkeys : e.kmem = e'.kmem ∨ ∀ arg, .seedArray arg ∉ cmds) :
    commandResponses form cmds e = commandResponses form cmds e' := by
  induction cmds generalizing e e' with
  | nil => rfl
  | cons i rest ih =>
    obtain ⟨hnext, hdata, hstatus⟩ := h.commandEffect form (i := i)
      (hkeys.imp_right fun hno arg hi => hno arg (hi ▸ List.mem_cons_self))
    rw [Machine.commandResponses, Machine.commandResponses, hdata, hstatus, ih hnext]
    rw [(commandEffect_frame form i e).1, (commandEffect_frame form i e').1]
    exact hkeys.imp_right fun hno arg hmem => hno arg (List.mem_cons_of_mem _ hmem)

/-- After a seeding that makes the same words, the responses are the same, that of the seeding included. -/
theorem commandResponses_after_seeding {seed : Instr} {cmds : List Instr} {e e' : Engine k} {form : Real32Form}
    (hseed : ∃ ws, commandEffect form seed e = complete 0 (seeded ws e) ∧
      commandEffect form seed e' = complete 0 (seeded ws e'))
    (hkeys : e.kmem = e'.kmem ∨ ∀ arg, .seedArray arg ∉ cmds) :
    commandResponses form (seed :: cmds) e = commandResponses form (seed :: cmds) e' := by
  obtain ⟨ws, he, he'⟩ := hseed
  rw [commandResponses, commandResponses, he, he', (sameStream_seeded ws e e').commandResponses form hkeys]
  rfl

/-- Settles O9: the seeding makes the same words, and the key memories are equal. -/
theorem reseededInstancesRunInLockStep : Obligations.ReseededInstancesRunInLockStep := by
  intro s₁ s₂ seed cmds hport hform hkmem hseed
  rw [execResponses_eq_commandResponses _ hport.symm, execResponses_eq_commandResponses _ rfl, ← hform]
  refine ⟨commandResponses_after_seeding (seeding_same_words ?_ _ _) (.inl hkmem), commandResponses_length ..⟩
  refine hseed.imp_right ?_
  rintro ⟨arg, rfl, h1, hmax⟩
  exact ⟨arg, rfl, h1, hmax, hkmem ▸ hmax, fun j _ => by rw [hkmem]⟩

/-- Settles O54: the keys below `L` decide the words, and no later command reads a key. -/
theorem keysBelowLengthDecideTheStream : Obligations.KeysBelowLengthDecideTheStream := by
  intro s₁ s₂ arg cmds hport hform h1 hmax₁ hmax₂ hkeys hno
  rw [execResponses_eq_commandResponses _ hport.symm, execResponses_eq_commandResponses _ rfl, ← hform]
  exact ⟨commandResponses_after_seeding (seeding_same_words (.inr ⟨arg, rfl, h1, hmax₁, hmax₂, hkeys⟩) _ _) (.inr hno),
    commandResponses_length ..⟩

/-- Settles O42: nothing reads the words of an unseeded instance. -/
theorem resetWordsAreNeverObservable : Obligations.ResetWordsAreNeverObservable := by
  intro s ws cmds hinit hcursor
  rw [execResponses_eq_commandResponses cmds (setEngine_port s s.port _),
    execResponses_eq_commandResponses cmds (rfl : s.port = s.port), engine_setEngine_same, setEngine_real32Form]
  exact (sameStream_unseeded ws hinit hcursor.ge).commandResponses _ (.inl rfl)

/-! ### The lazy default seeding -/

/-- An output command on an unseeded instance with its batch exhausted does what it does after a SEED_SCALAR of the
default seed (R108). -/
theorem output_after_default_seed (f : Word k → BitVec 64) {e : Engine k} (hinit : e.initialized = false)
    (hcursor : k.N ≤ e.cursor.toNat) : output f (seedScalar k.defaultSeed e) = output f e := by
  have hlazy : twistIfExhausted e = twist (defaultSeeding e) := by
    rw [twistIfExhausted, if_pos hcursor, if_neg (by simp [hinit])]
  have hseeded : twistIfExhausted (seedScalar k.defaultSeed e) = twist (seedScalar k.defaultSeed e) :=
    (if_pos (cursor_N k).ge).trans (congrArg twist (if_pos rfl))
  rw [output, output, hlazy, hseeded]
  rfl

/-- Settles O10: the operand 5489 is the default seed. -/
theorem lazyDefaultEqualsSeedScalar5489 : Obligations.LazyDefaultEqualsSeedScalar5489 := by
  intro s i hi hinit hcursor
  have hseed : seedOperand s.port 5489 = s.port.defaultSeed := by cases s.port <;> rfl
  refine ⟨_, _, exec_eq i s, exec_eq _ s, ?_⟩
  rw [exec_eq, State.onPort, State.onPort, State.onPort, setEngine_port, setEngine_real32Form, engine_setEngine_same,
    setEngine_setEngine, commandEffect_output hi, commandEffect_output hi, commandEffect, hseed,
    output_after_default_seed _ hinit hcursor]

end Sys2Proof.Machine
end

section
/-! SUPPORT. Runs of the machine (spec R58, R72, R82, R191, R211, R212): what is observed of one instance is its own run
on the actions addressed to it. The obligations on runs. -/

namespace Sys2Proof.Machine

variable {k : Width}

/-! ### A host that keeps its duty -/

/-- The duty of the host is said by `KEY_LEN_MAX` alone (R71). -/
theorem keepsDuty_congr {s t : State} (h : ∀ j, keyLenMax (t.engine j).kmem = keyLenMax (s.engine j).kmem)
    (x : HostInput) : keepsDuty t x = keepsDuty s x := by
  obtain ⟨j, a⟩ := x
  cases a with
  | writeKey idx data => rw [keepsDuty, keepsDuty, h j]
  | command cmd arg | reset => rfl

/-- No step changes what the duty of the host is (R8). -/
theorem keepsDuty_step {s t : State} (h : step s = .next t) (x : HostInput) : keepsDuty t x = keepsDuty s x :=
  keepsDuty_congr (parametersNeverChange s t h).2 x

/-- A ready instance allows every action that keeps the duty (R71, R204, R205). -/
theorem actionAllowed_of_keepsDuty {s : State} {a : HostAction k} (hready : (s.engine k).cmdReady = true)
    (hduty : keepsDuty s (.to k a) = true) : actionAllowed a (s.engine k) = true := by
  cases a with
  | writeKey idx data => exact actionAllowed_writeKey_iff.2 ⟨hready, of_decide_eq_true hduty⟩
  | command cmd arg => exact hready
  | reset => rfl

/-! ### The responses of a run -/

/-- The first of the interactions issues a command or not. -/
theorem commandPorts_cons (a : HostAction k) (rest : List HostInput) :
    commandPorts (.to k a :: rest) = (if commandOn k (.to k a) = true then [k] else []) ++ commandPorts rest := by
  cases a with
  | writeKey idx data | reset => rfl
  | command cmd arg => simp [commandOn, commandPorts]

/-- A performed action delivers one response on its port if it is a command, and none otherwise (R72). -/
theorem Performs.delivered_ports {a : HostAction k} {rest : List HostInput} {s t : State} (h : Performs a rest s t) :
    (Machine.delivered t).map Response.port = if commandOn k (.to k a) = true then [k] else [] := by
  rw [h.delivered, engineResponse, h.acted, actionEffect_rspValid]
  split <;> rfl

/-- A run answers as many interactions as it is given, from the invariant (R58, R72). -/
theorem responses_ports (xs : List HostInput) {s : State} (hin : s.inputs = xs) (hinv : Inv s)
    (hduty : ∀ x, x ∈ xs → keepsDuty s x = true) : (responses xs.length s).map Response.port = commandPorts xs := by
  induction xs generalizing s with
  | nil => rfl
  | cons x rest ih =>
    obtain ⟨k, a⟩ := x
    have hallowed := actionAllowed_of_keepsDuty (hinv.engineInv k).ready (hduty _ List.mem_cons_self)
    obtain ⟨t, ht, hp⟩ := step_performs hin hallowed
    have hrest := ih hp.inputs (hp.inv hinv) fun y hy => by
      rw [keepsDuty_step ht]
      exact hduty y (List.mem_cons_of_mem _ hy)
    rw [List.length_cons, responses, ht, List.map_append, hp.delivered_ports, hrest, commandPorts_cons]

/-- Settles O36: each interaction is allowed and delivers its response, if any, on its port. -/
theorem runAnswersEveryCommandInOrder : Obligations.RunAnswersEveryCommandInOrder :=
  fun s hinv hduty => responses_ports s.inputs rfl hinv hduty

/-! ### The run of one instance -/

/-- The actions of a list of interactions that are addressed to the instance of width `k`. -/
def actionsOn (k : Width) : List HostInput → List (HostAction k)
  | [] => []
  | .to j a :: rest => if h : j = k then (h ▸ a) :: actionsOn k rest else actionsOn k rest

@[simp] theorem actionsOn_same (a : HostAction k) (rest : List HostInput) :
    actionsOn k (.to k a :: rest) = a :: actionsOn k rest := dif_pos rfl

theorem actionsOn_ne {j : Width} (a : HostAction j) (rest : List HostInput) (h : j ≠ k) :
    actionsOn k (.to j a :: rest) = actionsOn k rest := dif_neg h

/-- Dropping the interactions of the other instance drops none of its actions. -/
theorem actionsOn_filter (k : Width) (xs : List HostInput) :
    actionsOn k (xs.filter (addressedTo k)) = actionsOn k xs := by
  induction xs with
  | nil => rfl
  | cons x rest ih =>
    obtain ⟨j, a⟩ := x
    by_cases hj : j = k
    · subst hj
      rw [List.filter_cons_of_pos (by simp [addressedTo]), actionsOn_same, actionsOn_same, ih]
    · rw [List.filter_cons_of_neg (by simp [addressedTo, hj]), actionsOn_ne a rest hj, ih]

theorem actionsOn_map (acts : List (HostAction k)) : actionsOn k (acts.map (HostInput.to k)) = acts := by
  induction acts with
  | nil => rfl
  | cons a rest ih => rw [List.map_cons, actionsOn_same, ih]

/-- What is observed of an instance alone over a list of actions on it; none where one is not allowed (R212). -/
def engineRun (form : Real32Form) : List (HostAction k) → Engine k → Option (Observation k)
  | [], e => some (Observation.final e)
  | a :: rest, e =>
    if actionAllowed a e = true then
      (engineRun form rest (actionEffect form a { e with rspValid := false })).map
        (Observation.after (observedResponse (actionEffect form a { e with rspValid := false })))
    else none

theorem map_after_nil (o : Option (Observation k)) : o.map (Observation.after []) = o := by cases o <;> rfl

/-- The response strobe an instance begins with is not observed. -/
theorem engineRun_end_strobe (form : Real32Form) (acts : List (HostAction k)) (e : Engine k) :
    engineRun form acts { e with rspValid := false } = engineRun form acts e := by
  cases acts with
  | nil => rfl
  | cons a rest => cases a <;> rfl

/-- Every instance that is ready stays ready (R70). -/
theorem Performs.ready {a : HostAction k} {rest : List HostInput} {s t : State} (h : Performs a rest s t)
    (hallowed : actionAllowed a (s.engine k) = true) {j : Width} (hready : (s.engine j).cmdReady = true) :
    (t.engine j).cmdReady = true := by
  by_cases hj : j = k
  · subst hj
    rw [h.acted]
    exact actionEffect_ready _ (by cases a <;> exact hallowed)
  · rw [h.other j hj]
    exact hready

/-- What is observed of one instance over the interactions `xs` is the run of that instance on its own actions, when
nothing addressed to the other instance is refused (R31, R191). -/
theorem observe_eq_engineRun (k : Width) (xs more : List HostInput) {s : State} (hin : s.inputs = xs ++ more)
    (hothers : ∀ (j : Width) (a : HostAction j), j ≠ k → .to j a ∈ xs →
      (s.engine j).cmdReady = true ∧ keepsDuty s (.to j a) = true) :
    observe k xs.length s = engineRun s.real32Form (actionsOn k xs) (s.engine k) := by
  induction xs generalizing s with
  | nil => rfl
  | cons x rest ih =>
    obtain ⟨i, a⟩ := x
    have hnext {t : State} (ht : step s = .next t) (hallowed : actionAllowed a (s.engine i) = true)
        (hp : Performs a (rest ++ more) s t) :
        observe k rest.length t = engineRun s.real32Form (actionsOn k rest) (t.engine k) := by
      rw [← hp.form]
      refine ih hp.inputs fun j b hj hb => ?_
      obtain ⟨hready, hduty⟩ := hothers j b hj (List.mem_cons_of_mem _ hb)
      exact ⟨hp.ready hallowed hready, (keepsDuty_step ht _).trans hduty⟩
    by_cases hi : i = k
    · subst hi
      rw [actionsOn_same, engineRun]
      cases hallowed : actionAllowed a (s.engine i) with
      | true =>
        obtain ⟨t, ht, hp⟩ := step_performs hin hallowed
        rw [List.length_cons, observe_succ i _ ht, hnext ht hallowed hp, hp.acted, if_pos rfl]
      | false =>
        obtain ⟨r, hr⟩ := step_refuses hin hallowed
        rw [List.length_cons, observe_refused i _ hr, if_neg Bool.false_ne_true]
    · obtain ⟨hready, hduty⟩ := hothers i a hi List.mem_cons_self
      have hallowed := actionAllowed_of_keepsDuty hready hduty
      obtain ⟨t, ht, hp⟩ := step_performs hin hallowed
      have hsilent : observedResponse (t.engine k) = [] :=
        observedResponse_of_not_valid (by rw [hp.other k (Ne.symm hi)])
      rw [List.length_cons, observe_succ k _ ht, hnext ht hallowed hp, hsilent, hp.other k (Ne.symm hi),
        engineRun_end_strobe, actionsOn_ne a rest hi]
      exact map_after_nil _

/-- Settles O60: both runs are that of the instance on its own actions. -/
theorem interleavingIsNotObservable : Obligations.InterleavingIsNotObservable := by
  intro s k xs hinv hduty
  have hrun (ys : List HostInput) (hys : ∀ y, y ∈ ys → y ∈ xs) :
      observe k ys.length { s with inputs := ys } = engineRun s.real32Form (actionsOn k ys) (s.engine k) := by
    rw [observe_eq_engineRun k ys [] (s := { s with inputs := ys }) (List.append_nil ys).symm fun j a _ ha => ?_,
      engine_with_inputs]
    refine ⟨by rw [engine_with_inputs]; exact (hinv.engineInv j).ready, ?_⟩
    rw [keepsDuty_congr (s := s) fun i => by rw [engine_with_inputs]]
    exact hduty _ (hys _ ha)
  rw [hrun xs fun _ h => h, hrun (xs.filter (addressedTo k)) fun _ h => List.mem_of_mem_filter h, actionsOn_filter]

/-! ### The run of a host program -/

/-- The run of `actions` is that of the instance alone: the `RESET`, then the actions to the end of the run (R212). -/
theorem runObservation_eq_engineRun (acts : List (HostAction k)) (s : State) : runObservation k acts s
    = engineRun s.real32Form (.reset :: acts.take (runEnd k (acts.map (HostInput.to k)))) (s.engine k) := by
  have hle := runEnd_le_length k (acts.map (HostInput.to k))
  rw [List.length_map] at hle
  generalize hn : runEnd k (acts.map (HostInput.to k)) = n at *
  have hin : (s.fromReset k acts).inputs = (HostAction.reset :: acts.take n).map (HostInput.to k)
      ++ (acts.drop n).map (HostInput.to k) := by
    rw [fromReset_inputs, ← List.map_append, List.cons_append, List.take_append_drop, List.map_cons]
  have hrun := observe_eq_engineRun k _ _ hin fun j a hj ha => by
    obtain ⟨b, -, hb⟩ := List.mem_map.1 ha
    cases hb
    exact absurd rfl hj
  rw [actionsOn_map, fromReset_engine, fromReset_real32Form, List.length_map, List.length_cons, List.length_take,
    Nat.min_eq_left hle] at hrun
  rw [runObservation, hn, hrun]

/-- A run from `RESET` depends on the reset count and `KEY_LEN_MAX` of its instance alone (R200). -/
theorem engineRun_from_reset (form : Real32Form) (acts : List (HostAction k)) (e : Engine k) :
    engineRun form (.reset :: acts) e = engineRun form acts (Engine.afterReset k (e.resets + 1) (keyLenMax e.kmem)) :=
  (if_pos rfl).trans (map_after_nil _)

/-- Settles O59: the reset count and `KEY_LEN_MAX` are the same. -/
theorem runObservationStartsFromReset : Obligations.RunObservationStartsFromReset := by
  intro s₁ s₂ k acts hlen hform hresets
  rw [runObservation_eq_engineRun, runObservation_eq_engineRun, engineRun_from_reset, engineRun_from_reset, hlen, hform,
    hresets]

/-- What is allowed depends on `cmd_ready` and `KEY_LEN_MAX` alone. -/
theorem actionAllowed_congr {e e' : Engine k} (hready : e.cmdReady = e'.cmdReady)
    (hlen : keyLenMax e.kmem = keyLenMax e'.kmem) (a : HostAction k) : actionAllowed a e = actionAllowed a e' := by
  cases a with
  | writeKey idx data => rw [actionAllowed, actionAllowed, hready, hlen]
  | command cmd arg => exact hready
  | reset => rfl

/-- A performed action is observed to deliver one response if it is a command, and none otherwise (R72). -/
theorem observedResponse_length (form : Real32Form) (a : HostAction k) (e : Engine k) :
    (observedResponse (actionEffect form a { e with rspValid := false })).length
      = (if commandOn k (.to k a) = true then [k] else []).length := by
  rw [observedResponse, actionEffect_rspValid]
  split <;> rfl

/-- The run of a ready instance on allowed actions is observed, with one response per command (R72, R212). -/
theorem engineRun_responses (form : Real32Form) (acts : List (HostAction k)) {e : Engine k} (hready : e.cmdReady = true)
    (hallowed : ∀ a, a ∈ acts → actionAllowed a e = true) : ∃ o, engineRun form acts e = some o ∧
      o.responses.length = (commandPorts (acts.map (HostInput.to k))).length := by
  induction acts generalizing e with
  | nil => exact ⟨_, rfl, rfl⟩
  | cons a rest ih =>
    have ha := hallowed a List.mem_cons_self
    have hready' : (actionEffect form a { e with rspValid := false }).cmdReady = true :=
      actionEffect_ready form ((actionAllowed_congr rfl rfl a).trans ha)
    obtain ⟨o, ho, hlength⟩ := ih hready' fun b hb => by
      rw [← hallowed b (List.mem_cons_of_mem _ hb)]
      exact actionAllowed_congr (hready'.trans hready.symm) (actionEffect_keyLenMax ..) b
    refine ⟨o.after (observedResponse (actionEffect form a { e with rspValid := false })), ?_, ?_⟩
    · rw [engineRun, if_pos ha, ho, Option.map_some]
    · rw [after_responses, List.length_append, hlength, observedResponse_length, List.map_cons, commandPorts_cons,
        List.length_append]

/-- No command of the instance comes after the end of its run (R212). -/
theorem commandPorts_take_runEnd (acts : List (HostAction k)) :
    commandPorts ((acts.take (runEnd k (acts.map (HostInput.to k)))).map (HostInput.to k))
      = commandPorts (acts.map (HostInput.to k)) := by
  induction acts with
  | nil => rfl
  | cons a rest ih =>
    rw [List.map_cons, runEnd]
    split
    · rw [List.take_succ_cons, List.map_cons, commandPorts_cons, commandPorts_cons, ih]
    · next h =>
      obtain ⟨hend, hcommand⟩ := not_or.1 h
      rw [Nat.eq_zero_of_not_pos hend] at ih
      rw [commandPorts_cons, if_neg hcommand, ← ih]
      rfl

/-- Settles O58: after the `RESET` the instance is ready, and the run ends with its last command. -/
theorem runObservationHoldsEveryResponse : Obligations.RunObservationHoldsEveryResponse := by
  intro s k acts tail hduty htail
  have hend : runEnd k ((acts ++ tail).map (HostInput.to k)) = runEnd k (acts.map (HostInput.to k)) := by
    rw [List.map_append]
    refine runEnd_append _ fun x hx => ?_
    obtain ⟨a, ha, rfl⟩ := List.mem_map.1 hx
    exact htail a ha
  have hle := runEnd_le_length k (acts.map (HostInput.to k))
  rw [List.length_map] at hle
  rw [runObservation_eq_engineRun, runObservation_eq_engineRun, hend, List.take_append_of_le_length hle,
    engineRun_from_reset, ← commandPorts_take_runEnd acts]
  obtain ⟨o, ho, hlength⟩ := engineRun_responses s.real32Form (acts.take (runEnd k (acts.map (HostInput.to k))))
    (e := Engine.afterReset k ((s.engine k).resets + 1) (keyLenMax (s.engine k).kmem)) rfl fun a ha => by
      have ha' := hduty a (List.mem_of_mem_take ha)
      cases a with
      | writeKey idx data => exact actionAllowed_writeKey_iff.2 ⟨rfl, by simpa [keepsDuty] using ha'⟩
      | command cmd arg | reset => rfl
  exact ⟨o, ho, hlength, ho⟩

/-! ### SEED_KEYS -/

/-- The key memory after `keys` are written from index `base` on (R82). -/
def loadKeys (base : Nat) : List (Word k) → Memory k → Memory k
  | [], m => m
  | d :: rest, m => loadKeys (base + 1) rest (memWrite m base d)

theorem keyLenMax_loadKeys (base : Nat) (keys : List (Word k)) (m : Memory k) :
    keyLenMax (loadKeys base keys m) = keyLenMax m := by
  induction keys generalizing base m with
  | nil => rfl
  | cons d rest ih => rw [loadKeys, ih, keyLenMax_memWrite]

/-- Elements outside the range written are left. -/
theorem memRead_loadKeys_outside {base j : Nat} {keys : List (Word k)} (m : Memory k)
    (h : j < base ∨ base + keys.length ≤ j) : memRead (loadKeys base keys m) j = memRead m j := by
  induction keys generalizing base m with
  | nil => rfl
  | cons d rest ih =>
    rw [List.length_cons] at h
    rw [loadKeys, ih _ (by omega)]
    exact memRead_memWrite_ne m d (by omega)

/-- Elements of the range written hold the keys, in order. -/
theorem memRead_loadKeys_inside {base : Nat} {keys : List (Word k)} (m : Memory k)
    (hroom : base + keys.length ≤ keyLenMax m) (j : Nat) (hj : j < keys.length) :
    memRead (loadKeys base keys m) (base + j) = keys[j] := by
  induction keys generalizing base m j with
  | nil => cases hj
  | cons d rest ih =>
    rw [List.length_cons] at hroom hj
    rw [loadKeys]
    cases j with
    | zero =>
      rw [memRead_loadKeys_outside _ (by omega), Nat.add_zero, List.getElem_cons_zero]
      exact memRead_memWrite_same m d (by omega)
    | succ j =>
      rw [show base + (j + 1) = base + 1 + j by omega, List.getElem_cons_succ]
      exact ih _ (by rw [keyLenMax_memWrite]; omega) j (by omega)

/-- One more step of a run of the machine. -/
theorem core_run_succ {s t : State} (n : Nat) (h : step s = .next t) :
    Host.Core.run Sys2Proof.core (n + 1) s = Host.Core.run Sys2Proof.core n t := by
  have hcore : Sys2Proof.core.step s = .next t := h
  simp only [Host.Core.run, hcore]

/-- The key writes of SEED_KEYS from index `base` on (R82). -/
def keyWrites (base : Nat) : List (Word k) → List (HostAction k)
  | [] => []
  | d :: rest => .writeKey base d :: keyWrites (base + 1) rest

theorem mapIdx_writeKey (base : Nat) (keys : List (Word k)) :
    (keys.mapIdx fun i d => HostAction.writeKey (base + i) d) = keyWrites base keys := by
  induction keys generalizing base with
  | nil => rfl
  | cons d rest ih =>
    rw [keyWrites, ← ih, List.mapIdx_cons]
    simp only [Nat.add_zero, Nat.add_assoc, Nat.add_comm 1]

/-- What the key writes leave: the keys loaded, and the response strobes ended if there was a write (R71, R72, R82). -/
theorem run_keyWrites (base : Nat) (keys : List (Word k)) (more : List HostInput) {s : State}
    (hin : s.inputs = (keyWrites base keys).map (HostInput.to k) ++ more) (hready : (s.engine k).cmdReady = true)
    (hroom : base + keys.length ≤ keyLenMax (s.engine k).kmem) :
    ∃ t, Host.Core.run Sys2Proof.core keys.length s = .next t ∧
      t.engine k = { s.engine k with
        kmem := loadKeys base keys (s.engine k).kmem, rspValid := (s.engine k).rspValid && keys.isEmpty } ∧
      (∀ j, j ≠ k → t.engine j = { s.engine j with rspValid := (s.engine j).rspValid && keys.isEmpty }) ∧
      t.real32Form = s.real32Form ∧ t.port = s.port ∧ t.inputs = more := by
  induction keys generalizing base s with
  | nil =>
    refine ⟨s, rfl, ?_, fun j _ => ?_, rfl, rfl, hin⟩
    · rw [List.isEmpty_nil, Bool.and_true]
      rfl
    · rw [List.isEmpty_nil, Bool.and_true]
  | cons d rest ih =>
    rw [List.length_cons] at hroom
    have hidx : base < keyLenMax (s.engine k).kmem := by omega
    have hstep := (step_writeKey (rest := (keyWrites (base + 1) rest).map (HostInput.to k) ++ more) hin).trans
      (hostWriteKey_inside d (by simpa using hready) (by simpa using hidx))
    generalize hu : (popInput ((keyWrites (base + 1) rest).map (HostInput.to k) ++ more) s).setEngine k _ = u at hstep
    have huk : u.engine k = { s.engine k with kmem := memWrite (s.engine k).kmem base d, rspValid := false } := by
      rw [← hu, engine_setEngine_same, popInput_engine]
    have huj (j : Width) (hj : j ≠ k) : u.engine j = { s.engine j with rspValid := false } := by
      rw [← hu, engine_setEngine_ne _ _ hj, popInput_engine]
    obtain ⟨t, ht, hk, hj, hform, hport, hinputs⟩ := ih (base + 1) (s := u) (by rw [← hu]; simp)
      (by rw [huk]; exact hready) (by rw [huk, keyLenMax_memWrite]; omega)
    refine ⟨t, (core_run_succ _ hstep).trans ht, ?_, fun j hne => ?_, ?_, ?_, hinputs⟩
    · rw [hk, huk, List.isEmpty_cons, Bool.and_false, Bool.false_and]
      rfl
    · rw [hj j hne, huj j hne, List.isEmpty_cons, Bool.and_false, Bool.false_and]
    · rw [hform, ← hu]
      simp
    · rw [hport, ← hu]
      simp

@[simp] theorem withProgram_engine (s : State) (k j : Width) (acts : List (HostAction k)) :
    (s.withProgram k acts).engine j = s.engine j := by cases j <;> rfl

/-- A length that fits in ARG, issued as SEED_ARRAY (R75, R76). -/
theorem issue_seedArray (k : Width) (L : Nat) :
    issue k (.seedArray (BitVec.ofNat 64 L)) = .command 0x02#8 (BitVec.ofNat k.bits L) := by
  have hk : k.bits ≤ 64 := by cases k <;> decide
  have hcmd : (encode k (.seedArray (BitVec.ofNat 64 L))).1 = 0x02#8 := by simp [encode, encodeOp, cmdWord]
  have harg : (encode k (.seedArray (BitVec.ofNat 64 L))).2 = BitVec.ofNat k.bits L := BitVec.setWidth_ofNat_of_le hk L
  rw [issue, hcmd, harg]

/-- SEED_KEYS as host interactions on an idle machine: the key writes from index 0 on, then SEED_ARRAY (R82). -/
theorem withProgram_seedKeys {s : State} (hin : s.inputs = []) (keys : List (Word k)) :
    (s.withProgram k (keys.mapIdx HostAction.writeKey
      ++ [issue k (.seedArray (BitVec.ofNat 64 keys.length))])).inputs
      = (keyWrites 0 keys).map (HostInput.to k) ++ [.to k (.command 0x02#8 (BitVec.ofNat k.bits keys.length))] := by
  have hwrites := mapIdx_writeKey 0 keys
  simp only [Nat.zero_add] at hwrites
  rw [State.withProgram, hin, List.nil_append, List.map_append, hwrites, issue_seedArray]
  rfl

/-- Settles O41: the actions are the key writes from index 0 and the command word of SEED_ARRAY. -/
theorem seedKeysLoadsKeysThenSeeds : Obligations.SeedKeysLoadsKeysThenSeeds := by
  intro s k keys hready hin
  refine ⟨by simp [seedKeys], fun acts hacts => ?_⟩
  rw [seedKeys] at hacts
  split at hacts
  · next h =>
    obtain ⟨hpos, hmax, -⟩ := h
    obtain rfl := Option.some.inj hacts
    obtain ⟨t, ht, hk, hj, hform, hport, hmore⟩ := run_keyWrites 0 keys _ (withProgram_seedKeys hin keys)
      (by rwa [withProgram_engine]) (by rwa [withProgram_engine, Nat.zero_add])
    have hempty : keys.isEmpty = false := List.isEmpty_eq_false_iff.2 (List.length_pos_iff.1 hpos)
    rw [withProgram_engine, hempty, Bool.and_false] at hk
    simp only [withProgram_engine, hempty, Bool.and_false] at hj
    refine ⟨t, ht, fun j hlt => ?_, fun j hge => ?_, ?_, ?_, hj, hform, hport, hmore⟩
    · rw [hk, ← memRead_loadKeys_inside (base := 0) (s.engine k).kmem (by omega) j hlt, Nat.zero_add]
    · rw [hk, memRead_loadKeys_outside _ (by omega)]
    · rw [hk, keyLenMax_loadKeys]
    · rw [hk]
  · cases hacts

end Sys2Proof.Machine
end
